-- ==== Sys2Proof/Word.lean ====
section
/-! DEFINITION. The two widths the block computes with (spec/00_scope.md R7, R11). Every value is unsigned. -/

namespace Sys2Proof

/-- One byte of a frame or record: 8 bits. -/
abbrev Byte := BitVec 8

/-- A 16-bit value: a register address, a count, a register value or a checksum. -/
abbrev Word := BitVec 16

end Sys2Proof
end

