-- ==== Sys2Proof/Syntax.lean ====
section
/-! DEFINITION. The block's commands, one constructor per row of spec/opcode_table.json (R61). -/

namespace Sys2Proof

/-- The three commands of the block with their operands (R60, R61). A reserved command code is no constructor: the
decoder names it (`DecodeError.reservedCommand`) and the step answers it with ILLEGAL_COMMAND (R62). -/
inductive Instr where
  /-- CRC16, CMD 0x10 (R103). -/
  | crc16 (data : List Byte)
  /-- BUILD_RHR, CMD 0x20 (R113). -/
  | buildRhr (first last : Word)
  /-- DECODE_RHR, CMD 0x30 (R129). -/
  | decodeRhr (data : List Byte)
  deriving DecidableEq, Repr

end Sys2Proof
end

