-- ==== Sys2Proof/Decode.lean ====
section
/-! DEFINITION. The command record and its two encodings: as a record (R60) and serialised to bytes (R60, D3), the
decoder of each, the encoder, and the byte and field helpers they use (R11, R41). -/

namespace Sys2Proof

/-- `hi ++ lo` of R11: the 16-bit value with `hi` in bits 15..8 and `lo` in bits 7..0. -/
def joinBytes (hi lo : Byte) : Word := hi ++ lo

/-- `v[15:8]` (R11). -/
def hiByte (v : Word) : Byte := v.extractLsb' 8 8

/-- `v[7:0]` (R11). -/
def loByte (v : Word) : Byte := v.extractLsb' 0 8

/-- A command record (R60). FIRST and LAST have meaning for BUILD_RHR and DATA for CRC16 and DECODE_RHR; a command that
does not carry a field ignores it. -/
structure CommandRecord where
  cmd   : Byte
  first : Word
  last  : Word
  data  : List Byte
  deriving DecidableEq, Repr

/-- Why bytes or a record give no command. -/
inductive DecodeError where
  /-- CMD is none of the three codes (R62). -/
  | reservedCommand (cmd : Byte)
  /-- There is no byte 0, so there is no CMD (R60). DESIGN CHOICE, safe: log entry 9. -/
  | emptyRecord
  /-- A serialised BUILD_RHR record that is not exactly 5 bytes (R60). DESIGN CHOICE, safe: log entry 9. -/
  | wrongRecordLength
  deriving DecidableEq, Repr

/-- The command code of CRC16 (R61). -/
def cmdCrc16 : Byte := 0x10#8
/-- The command code of BUILD_RHR (R61). -/
def cmdBuildRhr : Byte := 0x20#8
/-- The command code of DECODE_RHR (R61). -/
def cmdDecodeRhr : Byte := 0x30#8

/-- The command that a record stands for (R60, R61); a reserved code is refused by name (R62). -/
def decodeRecord (r : CommandRecord) : Except DecodeError Instr :=
  if r.cmd = cmdCrc16 then .ok (.crc16 r.data)
  else if r.cmd = cmdBuildRhr then .ok (.buildRhr r.first r.last)
  else if r.cmd = cmdDecodeRhr then .ok (.decodeRhr r.data)
  else .error (.reservedCommand r.cmd)

/-- The FIRST and LAST of a serialised BUILD_RHR record: bytes 1 to 2 and bytes 3 to 4, big-endian (R60, R44). -/
def buildRecordOfBytes : List Byte → Except DecodeError CommandRecord
  | [f1, f0, l1, l0] => .ok ⟨cmdBuildRhr, joinBytes f1 f0, joinBytes l1 l0, []⟩
  | _ => .error .wrongRecordLength

/-- The record that bytes serialise (R60): byte 0 is CMD; after CMD come FIRST and LAST of BUILD_RHR, or DATA. The
fields a record does not carry are zero and empty, and no command reads them. -/
def recordOfBytes : List Byte → Except DecodeError CommandRecord
  | [] => .error .emptyRecord
  | c :: rest => if c = cmdBuildRhr then buildRecordOfBytes rest else .ok ⟨c, 0#16, 0#16, rest⟩

/-- The command that a serialised record stands for, total on any bytes. -/
def decodeBytes (bs : List Byte) : Except DecodeError Instr :=
  match recordOfBytes bs with
  | .ok r => decodeRecord r
  | .error e => .error e

/-- The record of a command (R60, R61). -/
def Instr.toRecord : Instr → CommandRecord
  | .crc16 data => ⟨cmdCrc16, 0#16, 0#16, data⟩
  | .buildRhr first last => ⟨cmdBuildRhr, first, last, []⟩
  | .decodeRhr data => ⟨cmdDecodeRhr, 0#16, 0#16, data⟩

/-- The serialised record of a command (R60). -/
def encode : Instr → List Byte
  | .crc16 data => cmdCrc16 :: data
  | .buildRhr first last => [cmdBuildRhr, hiByte first, loByte first, hiByte last, loByte last]
  | .decodeRhr data => cmdDecodeRhr :: data

/-- The first `n` bytes of the number `w`, byte 0 in bits 7..0. -/
def bytesOfNat : Nat → Nat → List Byte
  | 0, _ => []
  | n + 1, w => BitVec.ofNat 8 w :: bytesOfNat n (w / 256)

/-- The bytes of a serialised record that spec/opcode_table.json gives `nbits` bits: a BUILD_RHR record goes on with
zeros to its 5 bytes; a record that ends in DATA ends where its bits end (log entry 11). -/
def tableBytes (nbits w : Nat) : List Byte :=
  let bs := bytesOfNat (nbits / 8) w
  if bs.head? = some cmdBuildRhr then bs ++ List.replicate (5 - bs.length) 0#8 else bs

/-- The command that the decoder reads from an opcode-table word. -/
def decodeTableWord (nbits w : Nat) : Option Instr :=
  match decodeBytes (tableBytes nbits w) with
  | .ok i => some i
  | .error _ => none

end Sys2Proof
end

