-- ==== Sys2Proof/Machine/Constants.lean ====
section
/-! DEFINITION. The values wired into the block (R25) and the exception message ROM (R26). They never change and no
command writes them, so they are definitions and not fields of State (log entry 2). -/

namespace Sys2Proof.Machine

/-- CRC_INIT (R25). -/
def crcInit : Word := 0xFFFF#16
/-- CRC_POLY (R25). -/
def crcPoly : Word := 0xA001#16
/-- FC_RHR (R25): the function code of read holding registers. -/
def fcRhr : Byte := 0x03#8
/-- EXC_FLAG (R25). -/
def excFlag : Byte := 0x80#8
/-- FC_EXC = FC_RHR | EXC_FLAG (R25). -/
def fcExc : Byte := fcRhr ||| excFlag
/-- REQ_LEN (R25): the length of a request frame. -/
def reqLen : Nat := 8
/-- EXC_MIN_LEN (R25): the shortest response read as an exception response. -/
def excMinLen : Nat := 5
/-- CRC_LEN (R25): the length of the trailing checksum. -/
def crcLen : Nat := 2
/-- REG_OFFSET (R25): the offset of the first register value in a response. -/
def regOffset : Nat := 3

/-- The exception message ROM MSG[0..7] (R26), spelled as the source spells it. -/
def msgRom : Vector String 8 :=
  #v["Unknown error", "Illegal function", "Illegal data address", "Illegal data value",
     "Slave device failure", "Acknowledge", "Slave device busy", "Memory Parity Error"]

/-- MSG[idx] (R26). -/
def msgText (idx : BitVec 3) : String := msgRom[idx.toFin]

end Sys2Proof.Machine
end

