-- ==== Sys2Proof/Machine/Operands.lean ====
section
/-! DEFINITION. Reading the input of a command: `In(i)`, the 16-bit fields of a frame and the register block. A read
carries the proof that it lies inside the input (R46), so no read invents a byte. -/

namespace Sys2Proof.Machine

/-- `In(i)` (R13): byte i of the input, for i inside it. -/
def inByte (s : List Byte) (i : Nat) (h : i < s.length) : Byte := s[i]

/-- A big-endian 16-bit field at offset k (R41, R71): `s[k] ++ s[k+1]`. -/
def be16At (s : List Byte) (k : Nat) (h : k + 1 < s.length) : Word :=
  joinBytes (inByte s k (Nat.lt_of_succ_lt h)) (inByte s (k + 1) h)

/-- A little-endian 16-bit field at offset k (R41, R71): `s[k+1] ++ s[k]`. -/
def le16At (s : List Byte) (k : Nat) (h : k + 1 < s.length) : Word :=
  joinBytes (inByte s (k + 1) h) (inByte s k (Nat.lt_of_succ_lt h))

/-- A 16-bit value written big-endian (R43). -/
def be16Bytes (v : Word) : List Byte := [hiByte v, loByte v]

/-- A 16-bit value written little-endian (R43). -/
def le16Bytes (v : Word) : List Byte := [loByte v, hiByte v]

/-- The number of registers for a byte count: `N = (BC + 1) >> 1`, the ceiling of BC/2 (R128, C2). -/
def regCount (bc : Byte) : Nat := (bc.toNat + 1) >>> 1

/-- REGS[j] = In(3+2j) ++ In(4+2j) for j in 0..n (R128). -/
def readRegs (s : List Byte) (n : Nat) (h : regOffset + 2 * n ≤ s.length) : List Word :=
  List.ofFn fun j : Fin n => be16At s (regOffset + 2 * j.val) (by have := j.isLt; omega)

end Sys2Proof.Machine
end

