-- ==== Sys2Proof/Config.lean ====
section
/-! DEFINITION. The parameters of R8 that the spec leaves open, as constants without a body: nothing can be proved of
their values, so a claim holds for every conforming block. LATENCY (R8, R179) has no constant, because the model has no
time. -/

namespace Sys2Proof

/-- UNIT_ADDRESS (R8, D5): the parameter that the reset of `Machine.State.reset` loads. It has no default (N4), so it has
no body. DESIGN CHOICE, safe: log entry 1. -/
opaque Config.unitAddress : Byte

/-- How far this block's MAX_INPUT_LEN lies above the conforming minimum (R8, D13). DESIGN CHOICE, safe: log entry 10. -/
opaque Config.inputLenAboveMin : Nat

/-- The smallest MAX_INPUT_LEN of a conforming block: "a conforming block has MAX_INPUT_LEN ≥ 260" (R8, D13). -/
def Config.minInputLen : Nat := 260

/-- MAX_INPUT_LEN (R8): any number that is at least `minInputLen`. -/
def Config.maxInputLen : Nat := Config.minInputLen + Config.inputLenAboveMin

end Sys2Proof
end

