-- ==== Sys2Proof/Machine/State.lean ====
section
/-! DEFINITION. What a state holds: the block's one register, the host's script, and the results delivered to the host;
the reasons for which no step exists; and the state after reset. -/

namespace Sys2Proof.Machine

/-- The status names of R66. -/
inductive Status where
  | ok
  | crcMismatch
  | unitAddressMismatch
  | modbusException
  | functionCodeMismatch
  | malformedFrame
  | illegalCommand
  deriving DecidableEq, Repr

/-- A result record: its status and the payload that R65 gives that status and command. -/
inductive Result where
  /-- OK after CRC16, with CRC. -/
  | okCrc (crc : Word)
  /-- OK after BUILD_RHR, with FRAME. -/
  | okFrame (frame : List Byte)
  /-- OK after DECODE_RHR, with REGS, first register first. -/
  | okRegs (regs : List Word)
  | crcMismatch
  | unitAddressMismatch (expected actual : Byte)
  | modbusException (unit function code : Byte) (msgIndex : BitVec 3) (message : String)
  | functionCodeMismatch (expected actual : Byte)
  | malformedFrame
  | illegalCommand
  deriving DecidableEq, Repr

/-- One line of a host script (R73). A label is named by a number (log entry 7). -/
inductive HostLine where
  /-- `RESET UNIT_ADDRESS=<byte>` (R170). -/
  | reset (unitAddress : Byte)
  /-- A command line: the host issues the record and waits for its result (R9, R175). -/
  | command (r : CommandRecord)
  /-- The host issues the record and a reset with `unitAddress` arrives while the command is in progress (R172). R73 has
  no spelling for this host move: log entry 4. -/
  | commandAborted (r : CommandRecord) (unitAddress : Byte)
  /-- `<label>:` -/
  | label (name : Nat)
  /-- `IF STATUS == <name> GOTO <label>` -/
  | ifStatus (status : Status) (target : Nat)
  /-- `IF REGS[<j>] == <value> GOTO <label>` -/
  | ifReg (j : Nat) (value : Word) (target : Nat)
  /-- `GOTO <label>` -/
  | goto (target : Nat)
  /-- `HALT` -/
  | halt
  deriving DecidableEq, Repr

/-- The whole state: the block instance and the host that drives it. -/
structure State where
  /-- UNIT_ADDR (R20, R21), the block's only register. `none` is an instance that has not been reset, which "holds no
  unit address and accepts no command" (R170). -/
  unitAddr : Option Byte
  /-- The host's script (R73). -/
  script : List HostLine
  /-- The lines of the script that the host has still to run, the next one first. -/
  todo : List HostLine
  /-- The result records delivered to the host, the last one first (R9, R49). The block retains none of them (R24). -/
  received : List Result
  deriving DecidableEq, Repr

/-- Why no step exists. The spec's errors are no faults: they are results (R154). -/
inductive Fault where
  /-- Raised by every command line on an instance that has never been reset: "accepts no command" (R170), the `stuck`
  treatment of I5. Safe. -/
  | notReset
  /-- Raised by the step when the host has no line left: an instance "steps only when the host issues it a command" (R10).
  Safe. -/
  | noHostLine
  deriving DecidableEq, Repr

/-- A move that the spec does not give the host. -/
inductive Refusal where
  /-- An instruction without a meaning yet. No arm of exec answers it. Safe. -/
  | notModelled (mnemonic : String)
  /-- Raised by a command line whose DATA is longer than MAX_INPUT_LEN: "a model gives the host no such move" (R176), the
  `refuse` treatment of I6. Safe. -/
  | inputTooLong
  /-- Raised by a host branch to a label that the script does not hold (R73 is silent: log entry 7). Safe. -/
  | noSuchLabel
  /-- Raised by a host IF before any result has been delivered (R73 is silent: log entry 8). Safe. -/
  | noResult
  /-- Raised by a host IF on a register that the last result does not carry (R73 is silent: log entry 8). Safe. -/
  | noSuchRegister
  /-- Raised by a platform step of an instance that the platform does not hold (R157, log entry 12). Safe. -/
  | noSuchInstance
  deriving DecidableEq, Repr

/-- The state right after reset (R32, R170, R171): UNIT_ADDR holds the parameter UNIT_ADDRESS, which has no default and so
no value here (log entry 1); the host has no line to run and has received nothing (log entries 5 and 6). -/
def State.reset : State :=
  { unitAddr := some Config.unitAddress, script := [], todo := [], received := [] }

/-- "Start state: instance never reset" (spec/95_test_vectors.md P1 to P4), with the host about to run `script`. -/
def State.neverReset (script : List HostLine) : State :=
  { unitAddr := none, script := script, todo := script, received := [] }

end Sys2Proof.Machine
end

