-- ==== Sys2Proof/Machine/Ops.lean ====
section
/-! DEFINITION. The shared operations: the checksum engine's functions (R100 to R102), delivering a result, running a
command on an instance (R174), the answer to a reserved code (R62), reset (R170) and the message lookup (R126). An error
is the delivery of a result and nothing else (R154), so there is no exception entry and no return from one. -/

namespace Sys2Proof.Machine

/-- `crc_bit` (R100): a logical shift right by one, then the exclusive or with CRC_POLY if bit 0 was set. -/
def crcBit (a : Word) : Word :=
  if a.getLsbD 0 then (a >>> 1) ^^^ crcPoly else a >>> 1

/-- `n` iterations of `crc_bit`. -/
def crcBits : Nat → Word → Word
  | 0, a => a
  | n + 1, a => crcBits n (crcBit a)

/-- `crc_byte` (R101): the byte into the low byte of the accumulator, then exactly 8 iterations. -/
def crcByte (a : Word) (b : Byte) : Word := crcBits 8 (a ^^^ b.setWidth 16)

/-- `crc16` (R102): CRC_INIT, then every byte in sequence order. -/
def crc16 (s : List Byte) : Word := s.foldl crcByte crcInit

/-- `msg_index` (R126). -/
def msgIndex (code : Byte) : BitVec 3 := if code.toNat ≤ 7 then code.extractLsb' 0 3 else 0#3

/-- The block delivers a result record to the host (R9, R154): nothing else of the state changes. -/
def State.deliver (s : State) (r : Result) : State := { s with received := r :: s.received }

/-- Reset (R170): UNIT_ADDR takes the parameter, and nothing else of the block is state. -/
def State.resetTo (s : State) (u : Byte) : State := { s with unitAddr := some u }

/-- A command on an instance: the one precondition of every command is a reset instance (R174), and what it does is
deliver the one result that it computes from UNIT_ADDR (R49). -/
def commandOn (s : State) (f : Byte → Result) : Host.Outcome State Fault Refusal :=
  match s.unitAddr with
  | some u => .next (s.deliver (f u))
  | none => .fault .notReset

/-- A reserved command code: ILLEGAL_COMMAND, with no other effect (R62, R159). -/
def illegalCommand (s : State) : Host.Outcome State Fault Refusal :=
  commandOn s fun _ => .illegalCommand

end Sys2Proof.Machine
end

