-- ==== Sys2Proof/Machine/Builder.lean ====
section
/-! DEFINITION. The frame builder: BUILD_RHR (spec/41_frame_builder.md). -/

namespace Sys2Proof.Machine

/-- COUNT = (LAST - FIRST + 1) mod 2^16 (R110), never rejected or clamped (R114). -/
def registerCount (first last : Word) : Word := last - first + 1#16

/-- The 6-byte header (R111). -/
def requestHeader (u : Byte) (first last : Word) : List Byte :=
  [u, fcRhr] ++ be16Bytes first ++ be16Bytes (registerCount first last)

/-- The request frame (R112, R67): the header and its checksum, little-endian. -/
def requestFrame (u : Byte) (first last : Word) : List Byte :=
  requestHeader u first last ++ le16Bytes (crc16 (requestHeader u first last))

/-- BUILD_RHR (R113): OK with the request frame, for every FIRST and LAST. -/
def execBuildRhr (first last : Word) (s : State) : Host.Outcome State Fault Refusal :=
  commandOn s fun u => .okFrame (requestFrame u first last)

end Sys2Proof.Machine
end

