-- ==== Sys2Proof/Machine/Checksum.lean ====
section
/-! DEFINITION. The checksum engine as a command: CRC16 (spec/40_checksum.md). -/

namespace Sys2Proof.Machine

/-- CRC16 (R103): OK with the checksum of DATA, for every DATA. UNIT_ADDR is not read, though the instance must have been
reset (R174). -/
def execCrc16 (data : List Byte) (s : State) : Host.Outcome State Fault Refusal :=
  commandOn s fun _ => .okCrc (crc16 data)

end Sys2Proof.Machine
end

