-- ==== Sys2Proof/Machine/Decoder.lean ====
section
/-! DEFINITION. The response validator and decoder: DECODE_RHR (spec/42_response_decoder.md). -/

namespace Sys2Proof.Machine

/-- The result of a Modbus exception response (R125, R126, C3). -/
def exceptionResult (unit function code : Byte) : Result :=
  .modbusException unit function code (msgIndex code) (msgText (msgIndex code))

/-- The register block and its bounds (R128): MALFORMED_FRAME where the byte count or a register would lie past the end,
else the registers in wire order. The byte count is not compared with L otherwise (R131). -/
def decodeRegs (s : List Byte) : Result :=
  if h3 : s.length < regOffset then .malformedFrame
  else
    let n := regCount (inByte s 2 (by simp only [regOffset] at h3; omega))
    if hn : regOffset + 2 * n > s.length then .malformedFrame
    else .okRegs (readRegs s n (by omega))

/-- The checks of DECODE_RHR in their strict order, then the registers (R121, R129). -/
def decodeResponse (u : Byte) (s : List Byte) : Result :=
  if h : s.length < crcLen then .malformedFrame                                   -- R122
  else
    have hL : 2 ≤ s.length := Nat.le_of_not_lt h
    let b0 := inByte s 0 (by omega)
    let b1 := inByte s 1 (by omega)
    if crc16 (s.take (s.length - crcLen)) ≠ le16At s (s.length - 2) (by omega) then
      .crcMismatch                                                                -- R123
    else if b0 ≠ u then .unitAddressMismatch u b0                                 -- R124
    else if he : excMinLen ≤ s.length ∧ b1 = fcExc then
      exceptionResult b0 b1 (inByte s 2 (by have := he.1; simp only [excMinLen] at this; omega))  -- R125
    else if b1 ≠ fcRhr then .functionCodeMismatch fcRhr b1                        -- R127
    else decodeRegs s                                                             -- R128

/-- DECODE_RHR (R129): one result, and no state written. -/
def execDecodeRhr (data : List Byte) (s : State) : Host.Outcome State Fault Refusal :=
  commandOn s fun u => decodeResponse u data

end Sys2Proof.Machine
end

