-- ==== Sys2Proof/Machine/Dispatch.lean ====
section
/-! DEFINITION. Which meaning each command has. -/

namespace Sys2Proof.Machine

def exec (i : Instr) (s : State) : Host.Outcome State Fault Refusal :=
  match i with
  | .crc16 data => Sys2Proof.Machine.execCrc16 data s
  | .buildRhr first last => Sys2Proof.Machine.execBuildRhr first last s
  | .decodeRhr data => Sys2Proof.Machine.execDecodeRhr data s

end Sys2Proof.Machine
end

