-- ==== Sys2Proof/Machine/Flags.lean ====
section
/-! DEFINITION. The block has no flags (R24): a command's outcome is the STATUS of its result. This file gives the status
of a result (R65), the status codes (R66) and the serialised result record (R65). -/

namespace Sys2Proof.Machine

/-- The status name of a result (R65). -/
def Result.status : Result → Status
  | .okCrc _ => .ok
  | .okFrame _ => .ok
  | .okRegs _ => .ok
  | .crcMismatch => .crcMismatch
  | .unitAddressMismatch _ _ => .unitAddressMismatch
  | .modbusException _ _ _ _ _ => .modbusException
  | .functionCodeMismatch _ _ => .functionCodeMismatch
  | .malformedFrame => .malformedFrame
  | .illegalCommand => .illegalCommand

/-- The status code of a status name (R66). -/
def Status.code : Status → Byte
  | .ok => 0x00#8
  | .crcMismatch => 0x01#8
  | .unitAddressMismatch => 0x02#8
  | .modbusException => 0x03#8
  | .functionCodeMismatch => 0x04#8
  | .malformedFrame => 0x05#8
  | .illegalCommand => 0x06#8

/-- The payload bytes of a serialised result: the fields in the order of R65's table, 16-bit values big-endian, MSG_INDEX
in one byte, MESSAGE not serialised. -/
def Result.payloadBytes : Result → List Byte
  | .okCrc crc => be16Bytes crc
  | .okFrame frame => frame
  | .okRegs regs => regs.flatMap be16Bytes
  | .unitAddressMismatch expected actual => [expected, actual]
  | .modbusException unit function code msgIndex _ => [unit, function, code, msgIndex.setWidth 8]
  | .functionCodeMismatch expected actual => [expected, actual]
  | .crcMismatch => []
  | .malformedFrame => []
  | .illegalCommand => []

/-- The serialised result record (R65): byte 0 is STATUS, then the fields. -/
def Result.toBytes (r : Result) : List Byte := r.status.code :: r.payloadBytes

/-- The registers a result carries (R65): REGS after an OK DECODE_RHR, none otherwise. -/
def Result.regs : Result → List Word
  | .okRegs regs => regs
  | _ => []

end Sys2Proof.Machine
end

