-- ==== Sys2Proof/WellFormed.lean ====
section
/-! DEFINITION. Which commands a host can issue: DATA is at most MAX_INPUT_LEN bytes long (R60, R64, R176). -/

namespace Sys2Proof

/-- L ≤ MAX_INPUT_LEN for a command's DATA (R60). Every block takes `Config.minInputLen` bytes, so the first test
implies the second: it only lets the check run on the lengths that every conforming block accepts. -/
def fitsInput (data : List Byte) : Bool :=
  decide (data.length ≤ Config.minInputLen) || decide (data.length ≤ Config.maxInputLen)

/-- A command that the host can issue (R64, R176). BUILD_RHR carries no DATA and its operands fit by their width
(R63). -/
def Instr.wellFormed : Instr → Bool
  | .crc16 data => fitsInput data
  | .buildRhr _ _ => true
  | .decodeRhr data => fitsInput data

end Sys2Proof
end

