-- ==== Sys2Proof/Machine/HostMoves.lean ====
section
/-! DEFINITION. What one line of the host's script does: it issues a command, resets the instance, or moves the host about
its script (R10, R73). The state these take has already moved past the line. -/

namespace Sys2Proof.Machine

/-- A command record issued to the instance (R9): a command that can be issued runs, DATA longer than MAX_INPUT_LEN is no
move of the host (R176), and a reserved code is answered (R62). -/
def runCommand (r : CommandRecord) (s : State) : Host.Outcome State Fault Refusal :=
  match decodeRecord r with
  | .ok i => if i.wellFormed then exec i s else .refused .inputTooLong
  | .error _ => illegalCommand s

/-- A command record issued to the instance and a reset that arrives while the command is in progress (R172): the command
is aborted, no result is delivered, and UNIT_ADDR takes the new parameter. A command that could not have been issued stops
as it does in `runCommand`. -/
def abortCommand (r : CommandRecord) (u : Byte) (s : State) : Host.Outcome State Fault Refusal :=
  match runCommand r s with
  | .next _ => .next (s.resetTo u)
  | .fault f => .fault f
  | .refused q => .refused q

/-- The lines after the first label of that name (log entry 7). -/
def afterLabel (target : Nat) : List HostLine → Option (List HostLine)
  | [] => none
  | l :: ls => if l = .label target then some ls else afterLabel target ls

/-- `GOTO <label>` (R73). -/
def gotoLabel (target : Nat) (s : State) : Host.Outcome State Fault Refusal :=
  match afterLabel target s.script with
  | some ls => .next { s with todo := ls }
  | none => .refused .noSuchLabel

/-- `IF <condition> GOTO <label>` (R73): the next line follows where the condition does not hold. -/
def gotoIf (condition : Bool) (target : Nat) (s : State) : Host.Outcome State Fault Refusal :=
  if condition then gotoLabel target s else .next s

/-- `IF STATUS == <name> GOTO <label>` on the last result (R73). -/
def branchStatus (status : Status) (target : Nat) (s : State) : Host.Outcome State Fault Refusal :=
  match s.received with
  | r :: _ => gotoIf (decide (r.status = status)) target s
  | [] => .refused .noResult

/-- `IF REGS[<j>] == <value> GOTO <label>` on a register of the last result (R73). -/
def branchReg (j : Nat) (value : Word) (target : Nat) (s : State) : Host.Outcome State Fault Refusal :=
  match s.received with
  | r :: _ =>
    match r.regs[j]? with
    | some v => gotoIf (decide (v = value)) target s
    | none => .refused .noSuchRegister
  | [] => .refused .noResult

/-- One line of the host's script. -/
def runLine (l : HostLine) (s : State) : Host.Outcome State Fault Refusal :=
  match l with
  | .reset u => .next (s.resetTo u)
  | .command r => runCommand r s
  | .commandAborted r u => abortCommand r u s
  | .label _ => .next s
  | .ifStatus status target => branchStatus status target s
  | .ifReg j value target => branchReg j value target s
  | .goto target => gotoLabel target s
  | .halt => .next { s with todo := [] }

/-- The host moves past its next line and runs it. With no line left there is no step (R10). -/
def hostStep (s : State) : Host.Outcome State Fault Refusal :=
  match s.todo with
  | l :: ls => runLine l { s with todo := ls }
  | [] => .fault .noHostLine

/-- The host is about to issue the record that these bytes serialise. Bytes that serialise no record leave the state. -/
def placeRecord (bs : List Byte) (s : State) : State :=
  match recordOfBytes bs with
  | .ok r => { s with todo := .command r :: s.todo }
  | .error _ => s

end Sys2Proof.Machine
end

