-- ==== Sys2Proof/Machine/Step.lean ====
section
/-! DEFINITION. One step of the machine, and a state whose next step runs a given command. -/

namespace Sys2Proof.Machine

/-- One step: the next line of the host's script (R10). A command line is one atomic step of the block (R9, R47). -/
def step (s : State) : Host.Outcome State Fault Refusal := hostStep s

/-- `s` with the command of an opcode-table word as the host's next line: the block fetches no instructions, it executes
the record that the host presents (R23, log entry 11). -/
def State.withFetchWord (s : State) (nbits w : Nat) : State := placeRecord (tableBytes nbits w) s

end Sys2Proof.Machine
end

