-- ==== Sys2Proof/Machine/Platform.lean ====
section
/-! DEFINITION. Several block instances side by side, each with its host (R10, R157): a platform is a list of states that
share nothing, and one of them steps at a time. -/

namespace Sys2Proof.Machine

/-- Instance `k` of the platform steps; every other instance stays as it is (R49, R157). -/
def stepInstance (p : List State) (k : Nat) : Host.Outcome (List State) Fault Refusal :=
  match p[k]? with
  | some s =>
    match step s with
    | .next t => .next (p.set k t)
    | .fault f => .fault f
    | .refused q => .refused q
  | none => .refused .noSuchInstance

end Sys2Proof.Machine
end

