-- ==== Sys2Proof/Safety.lean ====
section
/-! DEFINITION. What claims are stated in: frames that carry their checksum, well-formed responses, results that the spec
allows, and the invariants of a state. -/

namespace Sys2Proof.Machine

/-- A frame whose last two bytes are the checksum of every byte before them, little-endian (R41, R105, R123). -/
def checksummed (body : List Byte) : List Byte := body ++ [loByte (crc16 body), hiByte (crc16 body)]

/-- The normal response frame of R68 that carries these registers, with its byte count. -/
def responseFrame (u : Byte) (regs : List Word) : List Byte :=
  checksummed ([u, 0x03#8, BitVec.ofNat 8 (2 * regs.length)] ++ regs.flatMap fun v => [hiByte v, loByte v])

/-- The exception response frame of R69 with an exception code. -/
def exceptionFrame (u code : Byte) : List Byte := checksummed [u, 0x83#8, code]

/-- What R65, R67, R124 to R127 and R132 say of the fields of a result: a frame is 8 bytes for function 0x03 and carries
its checksum (residue 0, R104), there are at most 128 registers, an exception has FUNCTION 0x83 and the message of its
code, and a mismatch reports two values that differ. -/
def Result.Sound : Result → Prop
  | .okFrame frame => frame.length = 8 ∧ frame[1]? = some 0x03#8 ∧ crc16 frame = 0#16
  | .okRegs regs => regs.length ≤ 128
  | .unitAddressMismatch expected actual => expected ≠ actual
  | .modbusException _ function code idx message =>
      function = 0x83#8 ∧ idx = msgIndex code ∧ message = msgText idx
  | .functionCodeMismatch expected actual => expected = 0x03#8 ∧ actual ≠ 0x03#8
  | .okCrc _ => True
  | .crcMismatch => True
  | .malformedFrame => True
  | .illegalCommand => True

/-- Every result delivered so far is one the spec allows. -/
def State.ResultsSound (s : State) : Prop := ∀ r ∈ s.received, r.Sound

/-- An instance that has never been reset has delivered no result (R170, R174). -/
def State.SilentUntilReset (s : State) : Prop := s.unitAddr = none → s.received = []

end Sys2Proof.Machine
end

