-- ==== Sys2Proof/Certificates/Slice0/Obligations.lean ====
section
/-! DEFINITION. The statements for the provers. Each docstring names the rule or section of spec/ it formalises. Where a
result record appears, that it is added to `received` is how the model holds "the block delivers a result" (log entry
6). -/

open Sys2Proof Sys2Proof.Machine

/-! ### Encodings -/

/-- Records written out byte by byte as R60 and R61 lay them out: every record of the programs P1 to P4 of
95_test_vectors.md in the programs' order (a repeated one once), the record of CMD-05, and a BUILD_RHR record with four different operand
bytes. Each decodes to the command it stands for, and CMD 0xFF is reserved. -/
def Obligations.CommandWordsDecode : Prop :=
  decodeBytes [0x20#8, 0x00#8, 0x00#8, 0x00#8, 0x02#8] = .ok (.buildRhr 0x0000#16 0x0002#16) ∧
  decodeBytes [0x30#8, 0x01#8, 0x03#8, 0x06#8, 0x00#8, 0x0A#8, 0x01#8, 0x02#8, 0xFF#8, 0xFE#8, 0xD9#8, 0x38#8] =
    .ok (.decodeRhr [0x01#8, 0x03#8, 0x06#8, 0x00#8, 0x0A#8, 0x01#8, 0x02#8, 0xFF#8, 0xFE#8, 0xD9#8, 0x38#8]) ∧
  decodeBytes [0x10#8, 0x01#8, 0x03#8, 0x06#8, 0x00#8, 0x0A#8, 0x01#8, 0x02#8, 0xFF#8, 0xFE#8, 0xD9#8, 0x38#8] =
    .ok (.crc16 [0x01#8, 0x03#8, 0x06#8, 0x00#8, 0x0A#8, 0x01#8, 0x02#8, 0xFF#8, 0xFE#8, 0xD9#8, 0x38#8]) ∧
  decodeBytes [0x20#8, 0x00#8, 0x6B#8, 0x00#8, 0x6D#8] = .ok (.buildRhr 0x006B#16 0x006D#16) ∧
  decodeBytes [0x30#8, 0x11#8, 0x03#8, 0x06#8, 0xAE#8, 0x41#8, 0x46#8, 0x52#8, 0x43#8, 0x40#8, 0x49#8, 0xAD#8] =
    .ok (.decodeRhr [0x11#8, 0x03#8, 0x06#8, 0xAE#8, 0x41#8, 0x46#8, 0x52#8, 0x43#8, 0x40#8, 0x49#8, 0xAD#8]) ∧
  decodeBytes [0x30#8, 0x11#8, 0x03#8, 0x06#8, 0xAE#8, 0x41#8, 0x56#8, 0x52#8, 0x43#8, 0x40#8, 0x49#8, 0xAD#8] =
    .ok (.decodeRhr [0x11#8, 0x03#8, 0x06#8, 0xAE#8, 0x41#8, 0x56#8, 0x52#8, 0x43#8, 0x40#8, 0x49#8, 0xAD#8]) ∧
  decodeBytes [0x20#8, 0x00#8, 0x00#8, 0x00#8, 0x7D#8] = .ok (.buildRhr 0x0000#16 0x007D#16) ∧
  decodeBytes [0x30#8, 0x01#8, 0x83#8, 0x03#8, 0x01#8, 0x31#8] =
    .ok (.decodeRhr [0x01#8, 0x83#8, 0x03#8, 0x01#8, 0x31#8]) ∧
  decodeBytes [0x20#8, 0x00#8, 0x00#8, 0x00#8, 0x7C#8] = .ok (.buildRhr 0x0000#16 0x007C#16) ∧
  decodeBytes [0x30#8, 0x02#8, 0x83#8, 0x02#8, 0x30#8, 0xF1#8] =
    .ok (.decodeRhr [0x02#8, 0x83#8, 0x02#8, 0x30#8, 0xF1#8]) ∧
  decodeBytes [0x30#8, 0x02#8, 0x03#8, 0x02#8, 0x00#8, 0x01#8, 0x3D#8, 0x84#8] =
    .ok (.decodeRhr [0x02#8, 0x03#8, 0x02#8, 0x00#8, 0x01#8, 0x3D#8, 0x84#8]) ∧
  decodeBytes [0xFF#8] = .error (.reservedCommand 0xFF#8) ∧
  decodeBytes [0x10#8] = .ok (.crc16 []) ∧
  decodeBytes [0x20#8, 0x01#8, 0x23#8, 0x45#8, 0x67#8] = .ok (.buildRhr 0x0123#16 0x4567#16)

/-- Bytes decode to a command exactly if they are its serialised record (R60, R61): no bit of an encoding is dropped and
no command has two encodings. The record of a command decodes to it as well, and is what its bytes serialise. That bytes
which serialise no record of R60 (an empty record, a BUILD_RHR record that is not 5 bytes) give no command, and that the
fields a record does not carry are zero and empty, is the model's choice (log entry 9, DESIGN CHOICE). -/
def Obligations.DecodingInvertsEncoding : Prop :=
  (∀ (bs : List Byte) (i : Instr), decodeBytes bs = .ok i ↔ bs = encode i) ∧
  ∀ i : Instr, decodeRecord i.toRecord = .ok i ∧ recordOfBytes (encode i) = .ok i.toRecord

/-- A record has no command exactly if its CMD is none of 0x10, 0x20 and 0x30, and the refusal names the code (R61,
R62). -/
def Obligations.OnlyReservedCodesAreRefused : Prop :=
  ∀ (r : CommandRecord) (e : DecodeError), decodeRecord r = .error e ↔
    (e = .reservedCommand r.cmd ∧ r.cmd ≠ 0x10#8 ∧ r.cmd ≠ 0x20#8 ∧ r.cmd ≠ 0x30#8)

/-- The step of a command line is `exec` of the command that its record decodes to, on the state in which the host has
moved past the line (R9, R61). -/
def Obligations.StepRunsDecodedCommand : Prop :=
  ∀ (s : State) (r : CommandRecord) (ls : List HostLine) (i : Instr),
    s.todo = .command r :: ls → decodeRecord r = .ok i → i.wellFormed = true →
      step s = exec i { s with todo := ls }

/-- R159: a reserved CMD returns ILLEGAL_COMMAND and has no other effect, on a reset instance. -/
def Obligations.ReservedCommandReturnsIllegalCommand : Prop :=
  ∀ (s : State) (u : Byte) (r : CommandRecord) (ls : List HostLine),
    s.unitAddr = some u → s.todo = .command r :: ls →
    r.cmd ≠ 0x10#8 → r.cmd ≠ 0x20#8 → r.cmd ≠ 0x30#8 →
      step s = .next { s with todo := ls, received := .illegalCommand :: s.received }

/-! ### Checksum engine -/

/-- R100: bit 0 decides; the shift is logical and comes before the exclusive or with 0xA001. -/
def Obligations.CrcBitShiftsThenXors : Prop :=
  ∀ a : Word,
    (a.toNat % 2 = 1 → (crcBit a).toNat = (a.toNat / 2) ^^^ 0xA001) ∧
    (a.toNat % 2 = 0 → (crcBit a).toNat = a.toNat / 2) ∧
    (a >>> 1).getLsbD 15 = false

/-- R101: the byte goes into the low byte of the accumulator, the high byte is unchanged by it, and exactly 8 bit steps
follow. -/
def Obligations.CrcByteFoldsLowByteEightTimes : Prop :=
  ∀ (a : Word) (b : Byte),
    hiByte (a ^^^ b.setWidth 16) = hiByte a ∧
    loByte (a ^^^ b.setWidth 16) = loByte a ^^^ b ∧
    crcByte a b = crcBit^[8] (a ^^^ b.setWidth 16)

/-- R102: the accumulator starts at 0xFFFF, bytes fold in sequence order, the result is the final accumulator, and it is
transmitted little-endian (the last two bytes of a request frame). -/
def Obligations.CrcFoldsBytesInOrder : Prop :=
  crc16 [] = 0xFFFF#16 ∧
  (∀ (s : List Byte) (b : Byte), crc16 (s ++ [b]) = crcByte (crc16 s) b) ∧
  ∀ (u : Byte) (first last : Word),
    (requestFrame u first last).drop 6 =
      [loByte (crc16 ((requestFrame u first last).take 6)), hiByte (crc16 ((requestFrame u first last).take 6))]

/-- R103: CRC16 completes with OK on every DATA and every reset instance, delivers the checksum, does not depend on
UNIT_ADDR and changes nothing else; the empty sequence gives 0xFFFF and the worked example 0xCDC5. -/
def Obligations.Crc16DeliversChecksum : Prop :=
  (∀ (data : List Byte) (s : State), s.unitAddr ≠ none →
    exec (.crc16 data) s = .next { s with received := .okCrc (crc16 data) :: s.received }) ∧
  crc16 [] = 0xFFFF#16 ∧
  crc16 [0x01#8, 0x03#8, 0x00#8, 0x00#8, 0x00#8, 0x0A#8] = 0xCDC5#16

/-- R104 (derived by the spec from R102): a sequence followed by its own checksum, low byte first, has checksum 0. -/
def Obligations.ChecksumResidueIsZero : Prop :=
  ∀ s : List Byte, crc16 (s ++ [loByte (crc16 s), hiByte (crc16 s)]) = 0x0000#16

/-! ### Frame builder -/

/-- R110: COUNT modulo 2^16, with the exact count, the two wrapped cases and the closed form for LAST ≤ FIRST - 2; no
error in any case. -/
def Obligations.RegisterCountWraps : Prop :=
  ∀ first last : Word,
    (registerCount first last).toNat = (last.toNat + 0x10000 - first.toNat + 1) % 0x10000 ∧
    (first.toNat ≤ last.toNat → last.toNat - first.toNat ≤ 0xFFFE →
      (registerCount first last).toNat = last.toNat - first.toNat + 1) ∧
    (first = 0x0000#16 → last = 0xFFFF#16 → registerCount first last = 0x0000#16) ∧
    (last.toNat + 1 = first.toNat → registerCount first last = 0x0000#16) ∧
    (last.toNat + 2 ≤ first.toNat →
      (registerCount first last).toNat = 0x10000 - (first.toNat - last.toNat - 1)) ∧
    ∀ s : State, s.unitAddr ≠ none →
      ∃ frame, exec (.buildRhr first last) s = .next { s with received := .okFrame frame :: s.received }

/-- R111, R112, R114: BUILD_RHR completes with OK for every FIRST and LAST on every reset instance, and delivers the
6-byte header with COUNT as it is (no cap at 125) and the header's checksum, low byte first. -/
def Obligations.BuildRhrDeliversRequestFrame : Prop :=
  ∀ (first last : Word) (s : State) (u : Byte), s.unitAddr = some u →
    let count := last - first + 1#16
    let header := [u, 0x03#8, hiByte first, loByte first, hiByte count, loByte count]
    exec (.buildRhr first last) s = .next { s with
      received := .okFrame (header ++ [loByte (crc16 header), hiByte (crc16 header)]) :: s.received }

/-- R115 (derived by the spec): where LAST - FIRST is 0 to 0xFFFE, the frame BUILD_RHR delivers reads back as the unit
address, 0x03, FIRST and the exact count, and its last two bytes read little-endian are the checksum of the first six. -/
def Obligations.RequestFrameReadsBack : Prop :=
  ∀ (first last : Word) (s : State) (u : Byte), s.unitAddr = some u →
    first.toNat ≤ last.toNat → last.toNat - first.toNat ≤ 0xFFFE →
    ∃ f0 f1 f2 f3 f4 f5 f6 f7 : Byte,
      exec (.buildRhr first last) s =
        .next { s with received := .okFrame [f0, f1, f2, f3, f4, f5, f6, f7] :: s.received } ∧
      f0 = u ∧ f1 = 0x03#8 ∧ f2.toNat * 256 + f3.toNat = first.toNat ∧
      f4.toNat * 256 + f5.toNat = last.toNat - first.toNat + 1 ∧
      f7.toNat * 256 + f6.toNat = (crc16 [f0, f1, f2, f3, f4, f5]).toNat

/-! ### Response decoder -/

/-- R122: a response shorter than two bytes is MALFORMED_FRAME, whatever the unit address. -/
def Obligations.ShortResponseIsMalformed : Prop :=
  ∀ (data : List Byte) (s : State), s.unitAddr ≠ none → data.length < 2 →
    exec (.decodeRhr data) s = .next { s with received := .malformedFrame :: s.received }

/-- R123: where the last two bytes, low byte first, are not the checksum of every byte before them, the command ends with
CRC_MISMATCH, whatever else is wrong with the frame. -/
def Obligations.WrongChecksumIsCrcMismatch : Prop :=
  ∀ (body : List Byte) (lo hi : Byte) (s : State), s.unitAddr ≠ none →
    joinBytes hi lo ≠ crc16 body →
    exec (.decodeRhr (body ++ [lo, hi])) s = .next { s with received := .crcMismatch :: s.received }

/-- R124: a frame with its checksum whose byte 0 is not UNIT_ADDR ends with UNIT_ADDRESS_MISMATCH, whatever its function
code and length. -/
def Obligations.OtherUnitIsAddressMismatch : Prop :=
  ∀ (body : List Byte) (b0 u : Byte) (s : State), s.unitAddr = some u →
    (checksummed body)[0]? = some b0 → b0 ≠ u →
    exec (.decodeRhr (checksummed body)) s =
      .next { s with received := .unitAddressMismatch u b0 :: s.received }

/-- R26: the eight entries of the message ROM. -/
def Obligations.ExceptionMessageTable : Prop :=
  msgText 0#3 = "Unknown error" ∧ msgText 1#3 = "Illegal function" ∧ msgText 2#3 = "Illegal data address" ∧
  msgText 3#3 = "Illegal data value" ∧ msgText 4#3 = "Slave device failure" ∧ msgText 5#3 = "Acknowledge" ∧
  msgText 6#3 = "Slave device busy" ∧ msgText 7#3 = "Memory Parity Error"

/-- R125, R126, R127: a frame with its checksum from this unit, with byte 1 = 0x83 and at least 5 bytes, is reported with its
code as received and the message of the code (index 0 for every code above 7); with fewer than 5 bytes the exception check
does not fire and the function code check does, which is the spec's own derivation in R127 ("This catches 0x83 in a frame
shorter than 5 bytes", derived from R125 and R127). -/
def Obligations.ExceptionResponseIsReported : Prop :=
  ∀ (u : Byte) (s : State), s.unitAddr = some u →
    (∀ (code : Byte) (tail : List Byte) (idx : BitVec 3),
      idx.toNat = (if code.toNat ≤ 7 then code.toNat else 0) →
      exec (.decodeRhr (checksummed ([u, 0x83#8, code] ++ tail))) s =
        .next { s with received := .modbusException u 0x83#8 code idx (msgText idx) :: s.received }) ∧
    ∀ body : List Byte, (checksummed body).length < 5 → (checksummed body)[0]? = some u →
      (checksummed body)[1]? = some 0x83#8 →
      exec (.decodeRhr (checksummed body)) s =
        .next { s with received := .functionCodeMismatch 0x03#8 0x83#8 :: s.received }

/-- R127: a frame with its checksum from this unit that is no exception response and whose byte 1 is not 0x03 ends with
FUNCTION_CODE_MISMATCH. -/
def Obligations.OtherFunctionIsFunctionCodeMismatch : Prop :=
  ∀ (body : List Byte) (u b1 : Byte) (s : State), s.unitAddr = some u →
    (checksummed body)[0]? = some u → (checksummed body)[1]? = some b1 → b1 ≠ 0x03#8 →
    ¬ (5 ≤ (checksummed body).length ∧ b1 = 0x83#8) →
    exec (.decodeRhr (checksummed body)) s =
      .next { s with received := .functionCodeMismatch 0x03#8 b1 :: s.received }

/-- R128: a frame `f` that has passed every check gives ceil(BC/2) registers, the j-th from bytes 3+2j and 4+2j, if they
lie inside the whole frame, and MALFORMED_FRAME with no register otherwise. -/
def Obligations.RegisterBlockIsDecoded : Prop :=
  ∀ (body f : List Byte) (u : Byte) (s : State), s.unitAddr = some u → f = checksummed body →
    f[0]? = some u → f[1]? = some 0x03#8 →
    (∀ bc : Byte, f[2]? = some bc → 3 + 2 * ((bc.toNat + 1) / 2) ≤ f.length →
      ∃ regs : List Word,
        exec (.decodeRhr f) s = .next { s with received := .okRegs regs :: s.received } ∧
        regs.length = (bc.toNat + 1) / 2 ∧
        ∀ j < regs.length, ∃ hi lo : Byte,
          f[3 + 2 * j]? = some hi ∧ f[4 + 2 * j]? = some lo ∧ regs[j]? = some (joinBytes hi lo)) ∧
    ((∀ bc : Byte, f[2]? = some bc → 3 + 2 * ((bc.toNat + 1) / 2) > f.length) →
      exec (.decodeRhr f) s = .next { s with received := .malformedFrame :: s.received })

/-- R121, R153: which status DECODE_RHR reports, with the conditions of the strict order as equivalences: the first
failed check and no other is reported, and OK exactly if none fails. -/
def Obligations.DecodeReportsFirstFailedCheck : Prop :=
  ∀ (f : List Byte) (u : Byte) (s : State), s.unitAddr = some u →
    ∃ r : Result, exec (.decodeRhr f) s = .next { s with received := r :: s.received } ∧
      let valid := ∃ body, f = checksummed body
      let fits := ∃ bc : Byte, f[2]? = some bc ∧ 3 + 2 * ((bc.toNat + 1) / 2) ≤ f.length
      let isExc := 5 ≤ f.length ∧ f[1]? = some 0x83#8
      (r.status = .malformedFrame ↔
        f.length < 2 ∨ (valid ∧ f[0]? = some u ∧ f[1]? = some 0x03#8 ∧ ¬ fits)) ∧
      (r.status = .crcMismatch ↔ 2 ≤ f.length ∧ ¬ valid) ∧
      (r.status = .unitAddressMismatch ↔ valid ∧ f[0]? ≠ some u) ∧
      (r.status = .modbusException ↔ valid ∧ f[0]? = some u ∧ isExc) ∧
      (r.status = .functionCodeMismatch ↔ valid ∧ f[0]? = some u ∧ ¬ isExc ∧ f[1]? ≠ some 0x03#8) ∧
      (r.status = .ok ↔ valid ∧ f[0]? = some u ∧ f[1]? = some 0x03#8 ∧ fits)

/-- R131: whatever bytes, of whatever number, stand between the register block and the checksum, the registers are those
of the block: neither L = 5 + BC nor an even BC is required. -/
def Obligations.TrailingBytesAreIgnored : Prop :=
  ∀ (u bc : Byte) (block tail : List Byte) (s : State), s.unitAddr = some u →
    block.length = 2 * ((bc.toNat + 1) / 2) →
    ∃ regs : List Word, regs.length = (bc.toNat + 1) / 2 ∧ regs.flatMap (fun v => [hiByte v, loByte v]) = block ∧
      exec (.decodeRhr (checksummed ([u, 0x03#8, bc] ++ block ++ tail))) s =
        .next { s with received := .okRegs regs :: s.received }

/-- SRC-3 of 95_test_vectors.md (§8): a well-formed response with correct checksum, matching unit address, function code
0x03 and N register values decodes to exactly those N values in order. The byte count is one byte, so N is at most 127. -/
def Obligations.WellFormedResponseDecodesToItsRegisters : Prop :=
  ∀ (regs : List Word) (u : Byte) (s : State), s.unitAddr = some u → regs.length ≤ 127 →
    exec (.decodeRhr (responseFrame u regs)) s = .next { s with received := .okRegs regs :: s.received }

/-- SRC-4 of 95_test_vectors.md (§8): a frame with its checksum, of any length, in which any one byte is changed gives
CRC_MISMATCH. -/
def Obligations.SingleByteMutationIsCrcMismatch : Prop :=
  ∀ (body : List Byte) (i : Nat) (b : Byte) (s : State), s.unitAddr ≠ none →
    i < (checksummed body).length → (checksummed body)[i]? ≠ some b →
    exec (.decodeRhr ((checksummed body).set i b)) s = .next { s with received := .crcMismatch :: s.received }

/-! ### All commands -/

/-- R48, R49: a command's result is a function of its record and UNIT_ADDR alone: on two instances with one UNIT_ADDR,
whatever else their states hold, it completes with the same result. -/
def Obligations.ResultDependsOnCommandAndUnitOnly : Prop :=
  ∀ (i : Instr) (u : Byte), ∃ r : Result, ∀ s : State, s.unitAddr = some u →
    exec i s = .next { s with received := r :: s.received }

/-- The frame of all three commands (R20, R47, R154): a command that completes changes no register and no line of the
host's script, and delivers exactly one result. -/
def Obligations.CommandsOnlyDeliverOneResult : Prop :=
  ∀ (i : Instr) (s t : State), exec i s = .next t →
    t.unitAddr = s.unitAddr ∧ t.script = s.script ∧ t.todo = s.todo ∧ ∃ r, t.received = r :: s.received

/-- R151: CRC16 and BUILD_RHR raise no error, a reserved code raises ILLEGAL_COMMAND, and DECODE_RHR raises each of its
five errors on some response and never ILLEGAL_COMMAND. -/
def Obligations.ErrorsOfEachCommand : Prop :=
  (∀ (data : List Byte) (s : State), s.unitAddr ≠ none → ∃ r : Result,
    exec (.crc16 data) s = .next { s with received := r :: s.received } ∧ r.status = .ok) ∧
  (∀ (first last : Word) (s : State), s.unitAddr ≠ none → ∃ r : Result,
    exec (.buildRhr first last) s = .next { s with received := r :: s.received } ∧ r.status = .ok) ∧
  (∀ (data : List Byte) (s : State), s.unitAddr ≠ none → ∃ r : Result,
    exec (.decodeRhr data) s = .next { s with received := r :: s.received } ∧ r.status ≠ .illegalCommand) ∧
  (∀ st ∈ [Status.crcMismatch, .unitAddressMismatch, .modbusException, .functionCodeMismatch, .malformedFrame],
    ∃ (data : List Byte) (r : Result), exec (.decodeRhr data) { State.neverReset [] with unitAddr := some 0x01#8 } =
      .next { State.neverReset [] with unitAddr := some 0x01#8, received := [r] } ∧ r.status = st) ∧
  ∀ (r : CommandRecord) (s : State), s.unitAddr ≠ none → r.cmd ≠ 0x10#8 → r.cmd ≠ 0x20#8 → r.cmd ≠ 0x30#8 →
    runCommand r s = .next { s with received := .illegalCommand :: s.received }

/-- R65, R66: the serialised result record of every status: the status code of the table (none above 0x06), then the
payload fields in order, 16-bit values big-endian, MSG_INDEX in one byte and MESSAGE not serialised. -/
def Obligations.ResultRecordBytes : Prop :=
  (∀ crc : Word, (Result.okCrc crc).toBytes = [0x00#8, hiByte crc, loByte crc]) ∧
  (∀ frame : List Byte, (Result.okFrame frame).toBytes = 0x00#8 :: frame) ∧
  (∀ regs : List Word, (Result.okRegs regs).toBytes = 0x00#8 :: regs.flatMap fun v => [hiByte v, loByte v]) ∧
  Result.crcMismatch.toBytes = [0x01#8] ∧
  (∀ e a : Byte, (Result.unitAddressMismatch e a).toBytes = [0x02#8, e, a]) ∧
  (∀ (unit function code : Byte) (idx : BitVec 3) (m : String),
    (Result.modbusException unit function code idx m).toBytes = [0x03#8, unit, function, code, idx.setWidth 8]) ∧
  (∀ e a : Byte, (Result.functionCodeMismatch e a).toBytes = [0x04#8, e, a]) ∧
  Result.malformedFrame.toBytes = [0x05#8] ∧ Result.illegalCommand.toBytes = [0x06#8] ∧
  ∀ r : Result, r.status.code.toNat ≤ 6

/-- R174: an instance that has been reset needs nothing else for any command, CRC16 among them, and one that has not been
reset has no step for any. That the model says "no step" by the fault `notReset` is the model's reading of I5's `stuck`
(log entry 14, DEDUCED). -/
def Obligations.CommandsNeedExactlyAReset : Prop :=
  ∀ (i : Instr) (s : State),
    (s.unitAddr ≠ none → ∃ t, exec i s = .next t) ∧ (s.unitAddr = none → exec i s = .fault .notReset)

/-- Every command that a host can issue to a reset instance, a reserved code included, gets exactly one result in one step
(R9, R47, R65). -/
def Obligations.EveryIssuedCommandGetsOneResult : Prop :=
  ∀ (s : State) (u : Byte) (r : CommandRecord) (ls : List HostLine),
    s.unitAddr = some u → s.todo = .command r :: ls → (∀ i, decodeRecord r = .ok i → i.wellFormed = true) →
    ∃ res : Result, step s = .next { s with todo := ls, received := res :: s.received }

/-- R60, R64, R176 and D13: which lengths of DATA the host can issue. CRC16 and DECODE_RHR can be issued exactly if
L ≤ MAX_INPUT_LEN, which is at least 260, and BUILD_RHR always; a command of such a length gets its result from a reset
instance, and a longer one is a move that the host does not have. That the model answers such a move with a refusal is the
treatment of I6 (log entry 10, DESIGN CHOICE). -/
def Obligations.OverlongInputIsNoMove : Prop :=
  260 ≤ Config.maxInputLen ∧
  (∀ data : List Byte,
    ((Instr.crc16 data).wellFormed = true ↔ data.length ≤ Config.maxInputLen) ∧
    ((Instr.decodeRhr data).wellFormed = true ↔ data.length ≤ Config.maxInputLen)) ∧
  (∀ first last : Word, (Instr.buildRhr first last).wellFormed = true) ∧
  ∀ (data : List Byte) (s : State) (ls : List HostLine) (i : Instr), i = .crc16 data ∨ i = .decodeRhr data →
    s.todo = .command i.toRecord :: ls →
    (data.length ≤ Config.maxInputLen → s.unitAddr ≠ none →
      ∃ res : Result, step s = .next { s with todo := ls, received := res :: s.received }) ∧
    (data.length > Config.maxInputLen → step s = .refused .inputTooLong)

/-- R60, R62: a command whose code carries no FIRST and LAST ignores those fields, one that carries no DATA ignores it,
and a reserved code reads none: two records that agree in CMD and in the fields that the code carries do the same, on
every state. -/
def Obligations.FieldsNotCarriedAreIgnored : Prop :=
  ∀ (r q : CommandRecord) (s : State), r.cmd = q.cmd →
    (r.cmd = 0x20#8 → r.first = q.first ∧ r.last = q.last) →
    (r.cmd = 0x10#8 ∨ r.cmd = 0x30#8 → r.data = q.data) →
    runCommand r s = runCommand q s

/-! ### Reset, the host and several instances -/

/-- R170: reset loads UNIT_ADDR from its parameter and changes nothing else, on a reset instance or one never reset; an
instance that has not been reset accepts no command. -/
def Obligations.ResetLoadsUnitAddress : Prop :=
  (∀ (s : State) (u : Byte) (ls : List HostLine), s.todo = .reset u :: ls →
    step s = .next { s with unitAddr := some u, todo := ls }) ∧
  ∀ (s : State) (r : CommandRecord) (ls : List HostLine), s.unitAddr = none → s.todo = .command r :: ls →
    ∀ t, step s ≠ .next t

/-- R172: a reset that arrives while a command is in progress aborts it: no result is delivered, and UNIT_ADDR holds the
new UNIT_ADDRESS. -/
def Obligations.ResetDuringCommandAbortsIt : Prop :=
  ∀ (s : State) (u v : Byte) (r : CommandRecord) (ls : List HostLine),
    s.unitAddr = some v → s.todo = .commandAborted r u :: ls →
    (∀ i, decodeRecord r = .ok i → i.wellFormed = true) →
    step s = .next { s with unitAddr := some u, todo := ls }

/-- R173: UNIT_ADDR changes only by reset, over every step of every state. -/
def Obligations.UnitAddressChangesOnlyByReset : Prop :=
  ∀ s t : State, step s = .next t → t.unitAddr ≠ s.unitAddr →
    ∃ (u : Byte) (ls : List HostLine), t.unitAddr = some u ∧
      (s.todo = .reset u :: ls ∨ ∃ r, s.todo = .commandAborted r u :: ls)

/-- R73: the host's lines that are no commands. A label is passed; GOTO goes on after the label; IF goes there exactly if
its condition on the last result holds; HALT leaves no line. None touches the block or the results. That the label is the
first of its name is the model's choice (log entry 7). -/
def Obligations.HostLinesMoveOnlyTheHost : Prop :=
  ∀ (s : State) (ls target : List HostLine) (n : Nat),
    (s.todo = .label n :: ls → step s = .next { s with todo := ls }) ∧
    (s.todo = .halt :: ls → step s = .next { s with todo := [] }) ∧
    (afterLabel n s.script = some target →
      (s.todo = .goto n :: ls → step s = .next { s with todo := target }) ∧
      (∀ (st : Status) (r : Result) (rs : List Result), s.received = r :: rs → s.todo = .ifStatus st n :: ls →
        step s = .next { s with todo := if r.status = st then target else ls }) ∧
      ∀ (j : Nat) (v w : Word) (regs : List Word) (rs : List Result), s.received = .okRegs regs :: rs →
        regs[j]? = some w → s.todo = .ifReg j v n :: ls →
        step s = .next { s with todo := if w = v then target else ls })

/-- R49, R157: instances share nothing. A step of one leaves every other as it was, and steps of two instances give the
same platform in either order. -/
def Obligations.InstancesAreIndependent : Prop :=
  (∀ (p q : List State) (k : Nat), stepInstance p k = .next q →
    q.length = p.length ∧ ∀ j, j ≠ k → q[j]? = p[j]?) ∧
  ∀ (p q r : List State) (j k : Nat), j ≠ k → stepInstance p j = .next q → stepInstance q k = .next r →
    ∃ q', stepInstance p k = .next q' ∧ stepInstance q' j = .next r

/-! ### Invariants -/

/-- Both invariants hold right after reset and in an instance that has never been reset. -/
def Obligations.ResetMeetsInvariants : Prop :=
  State.reset.ResultsSound ∧ State.reset.SilentUntilReset ∧
  ∀ script, (State.neverReset script).ResultsSound ∧ (State.neverReset script).SilentUntilReset

/-- Every step keeps every delivered result sound: frames of 8 bytes with function 0x03 and residue 0 (R67, R104), at most
128 registers (R65, R132), the message of the exception code with FUNCTION 0x83 (R125, R126), mismatches of two values that
differ (R124, R127). -/
def Obligations.StepKeepsResultsSound : Prop :=
  ∀ s t : State, s.ResultsSound → step s = .next t → t.ResultsSound

/-- Every step keeps it that an instance never reset has delivered nothing (R170, R174). -/
def Obligations.StepKeepsSilentUntilReset : Prop :=
  ∀ s t : State, s.SilentUntilReset → step s = .next t → t.SilentUntilReset
end

