-- ==== Sys2Proof/Laws/Decode.lean ====
section
/-! SUPPORT. The byte and field helpers, the record decoder on each command code, and the check of DATA's length. -/

namespace Sys2Proof

@[simp] theorem hiByte_joinBytes (hi lo : Byte) : hiByte (joinBytes hi lo) = hi := by
  apply BitVec.eq_of_getLsbD_eq
  intro i h
  simp only [hiByte, joinBytes, BitVec.getLsbD_extractLsb', BitVec.getLsbD_append]
  simp [h]

@[simp] theorem loByte_joinBytes (hi lo : Byte) : loByte (joinBytes hi lo) = lo := by
  apply BitVec.eq_of_getLsbD_eq
  intro i h
  simp only [loByte, joinBytes, BitVec.getLsbD_extractLsb', BitVec.getLsbD_append]
  simp [h]

@[simp] theorem joinBytes_hiByte_loByte (v : Word) : joinBytes (hiByte v) (loByte v) = v := by
  apply BitVec.eq_of_getLsbD_eq
  intro i hi
  simp only [joinBytes, hiByte, loByte, BitVec.getLsbD_append, BitVec.getLsbD_extractLsb']
  split
  · simp [*]
  · simp [Nat.add_sub_cancel' (Nat.le_of_not_lt ‹_›)]; omega

/-- The length check accepts exactly the lengths up to MAX_INPUT_LEN. -/
theorem fitsInput_iff (data : List Byte) : fitsInput data = true ↔ data.length ≤ Config.maxInputLen := by
  rw [fitsInput, Bool.or_eq_true, decide_eq_true_eq, decide_eq_true_eq]
  exact ⟨fun h => h.elim (fun h => h.trans (Nat.le_add_right _ _)) id, .inr⟩

/-- Every conforming block takes DATA of up to 260 bytes. -/
theorem fitsInput_of_le (data : List Byte) (h : data.length ≤ 260) : fitsInput data = true := by
  simp [fitsInput, Config.minInputLen, h]

@[simp] theorem decodeRecord_crc16 (f l : Word) (data : List Byte) :
    decodeRecord ⟨cmdCrc16, f, l, data⟩ = .ok (.crc16 data) := rfl
@[simp] theorem decodeRecord_buildRhr (f l : Word) (data : List Byte) :
    decodeRecord ⟨cmdBuildRhr, f, l, data⟩ = .ok (.buildRhr f l) := rfl
@[simp] theorem decodeRecord_decodeRhr (f l : Word) (data : List Byte) :
    decodeRecord ⟨cmdDecodeRhr, f, l, data⟩ = .ok (.decodeRhr data) := rfl

/-- The record decoder refuses nothing but a reserved code, and names it. -/
theorem decodeRecord_error {r : CommandRecord} {e : DecodeError} (h : decodeRecord r = .error e) :
    e = .reservedCommand r.cmd ∧ r.cmd ≠ cmdCrc16 ∧ r.cmd ≠ cmdBuildRhr ∧ r.cmd ≠ cmdDecodeRhr := by
  unfold decodeRecord at h
  split_ifs at h with h1 h2 h3
  exact ⟨(Except.error.inj h).symm, h1, h2, h3⟩

end Sys2Proof
end

