-- ==== Sys2Proof/Laws/State.lean ====
section
/-! SUPPORT. One lemma per field per update of State. -/

namespace Sys2Proof.Machine

variable (s : State)

@[simp] theorem State.deliver_unitAddr (r : Result) : (s.deliver r).unitAddr = s.unitAddr := rfl
@[simp] theorem State.deliver_script (r : Result) : (s.deliver r).script = s.script := rfl
@[simp] theorem State.deliver_todo (r : Result) : (s.deliver r).todo = s.todo := rfl
@[simp] theorem State.deliver_received (r : Result) : (s.deliver r).received = r :: s.received := rfl

@[simp] theorem State.resetTo_unitAddr (u : Byte) : (s.resetTo u).unitAddr = some u := rfl
@[simp] theorem State.resetTo_script (u : Byte) : (s.resetTo u).script = s.script := rfl
@[simp] theorem State.resetTo_todo (u : Byte) : (s.resetTo u).todo = s.todo := rfl
@[simp] theorem State.resetTo_received (u : Byte) : (s.resetTo u).received = s.received := rfl

@[simp] theorem State.reset_unitAddr : State.reset.unitAddr = some Config.unitAddress := rfl
@[simp] theorem State.reset_script : State.reset.script = [] := rfl
@[simp] theorem State.reset_todo : State.reset.todo = [] := rfl
@[simp] theorem State.reset_received : State.reset.received = [] := rfl

end Sys2Proof.Machine
end

