-- ==== Sys2Proof/Laws/Ops.lean ====
section
/-! SUPPORT. Once per shared operation: what it answers, and everything its next state can be. -/

namespace Sys2Proof.Machine

theorem commandOn_reset {s : State} {u : Byte} (h : s.unitAddr = some u) (f : Byte → Result) :
    commandOn s f = .next (s.deliver (f u)) := by simp [commandOn, h]

theorem commandOn_neverReset {s : State} (h : s.unitAddr = none) (f : Byte → Result) :
    commandOn s f = .fault .notReset := by simp [commandOn, h]

/-- A command's next state is the old one with one delivered result, computed from UNIT_ADDR. -/
theorem commandOn_next {s t : State} {f : Byte → Result} (h : commandOn s f = .next t) :
    ∃ u, s.unitAddr = some u ∧ t = s.deliver (f u) := by
  unfold commandOn at h
  split at h
  · exact ⟨_, ‹_›, by simpa using h.symm⟩
  · cases h

/-- The result of each command, as a function of UNIT_ADDR. -/
def resultOf : Instr → Byte → Result
  | .crc16 data, _ => .okCrc (crc16 data)
  | .buildRhr first last, u => .okFrame (requestFrame u first last)
  | .decodeRhr data, u => decodeResponse u data

/-- Every command is one `commandOn`. -/
theorem exec_eq_commandOn (i : Instr) (s : State) : exec i s = commandOn s (resultOf i) := by
  cases i <;> rfl

theorem crc16_nil : crc16 [] = crcInit := rfl

theorem crc16_append (s t : List Byte) : crc16 (s ++ t) = t.foldl crcByte (crc16 s) := by
  simp [crc16, List.foldl_append]

/-- The checksum of a sequence and one more byte (R102). -/
theorem crc16_concat (s : List Byte) (b : Byte) : crc16 (s ++ [b]) = crcByte (crc16 s) b := by
  simp [crc16_append]

theorem length_requestFrame (u : Byte) (first last : Word) : (requestFrame u first last).length = reqLen := rfl

theorem regCount_eq (bc : Byte) : regCount bc = (bc.toNat + 1) / 2 := by
  simp [regCount, Nat.shiftRight_eq_div_pow]

theorem regCount_le (bc : Byte) : regCount bc ≤ 128 := by
  rw [regCount_eq]; omega

@[simp] theorem length_readRegs (s : List Byte) (n : Nat) (h : regOffset + 2 * n ≤ s.length) :
    (readRegs s n h).length = n := by simp [readRegs]

end Sys2Proof.Machine
end

