-- ==== Sys2Proof/Laws/Checksum.lean ====
section
/-! SUPPORT. The bit and byte steps: what several bit steps do to zero bits, and that each step loses nothing. -/

namespace Sys2Proof.Machine

/-- Bit steps over zero bits are shifts. -/
theorem crcBits_eq_shiftRight (n : Nat) (a : Word) (h : ∀ i < n, a.getLsbD i = false) : crcBits n a = a >>> n := by
  induction n generalizing a with
  | zero => simp [crcBits]
  | succ n ih =>
    rw [crcBits, crcBit, if_neg (by rw [h 0 (by omega)]; simp), ih]
    · rw [← BitVec.shiftRight_add, Nat.add_comm]
    · intro i hi
      simp [BitVec.getLsbD_ushiftRight, h (1 + i) (by omega)]

/-- Bit 15 after a bit step is bit 0 before it, because bit 15 of CRC_POLY is set. -/
theorem crcBit_top (a : Word) : (crcBit a).getLsbD 15 = a.getLsbD 0 := by
  unfold crcBit
  split <;> simp_all [crcPoly]

theorem crcBit_injective : Function.Injective crcBit := by
  intro a b h
  have h0 : a.getLsbD 0 = b.getLsbD 0 := by rw [← crcBit_top, ← crcBit_top, h]
  have hs : a >>> 1 = b >>> 1 := by
    unfold crcBit at h
    by_cases ha : a.getLsbD 0 = true
    · rw [if_pos ha, if_pos (h0 ▸ ha)] at h
      simpa using h
    · rwa [if_neg ha, if_neg (h0 ▸ ha)] at h
  apply BitVec.eq_of_getLsbD_eq
  intro i hi
  cases i with
  | zero => exact h0
  | succ i =>
    have := congrArg (fun x : Word => x.getLsbD i) hs
    simpa [BitVec.getLsbD_ushiftRight, Nat.add_comm] using this

theorem crcBits_injective (n : Nat) : Function.Injective (crcBits n) := by
  induction n with
  | zero => exact fun a b h => by simpa [crcBits] using h
  | succ n ih => exact fun a b h => crcBit_injective (ih h)

end Sys2Proof.Machine
end

