-- ==== Sys2Proof/Laws/Decoder.lean ====
section
/-! SUPPORT. The decoder on a frame taken apart as a body and its last two bytes, and the register block on a frame whose
byte 2 exists. -/

namespace Sys2Proof.Machine

theorem length_checksummed (body : List Byte) : (checksummed body).length = body.length + 2 := by
  simp [checksummed]

/-- The decoder's checks on a frame of at least two bytes, with the checksum as the two bytes after the body. -/
theorem decodeResponse_append (u : Byte) (body : List Byte) (lo hi : Byte) :
    decodeResponse u (body ++ [lo, hi]) =
      if crc16 body ≠ joinBytes hi lo then .crcMismatch
      else if (body ++ [lo, hi])[0] ≠ u then .unitAddressMismatch u (body ++ [lo, hi])[0]
      else if h : 5 ≤ (body ++ [lo, hi]).length ∧ (body ++ [lo, hi])[1] = 0x83#8 then
        exceptionResult (body ++ [lo, hi])[0] (body ++ [lo, hi])[1]
          ((body ++ [lo, hi])[2]'(by have := h.1; omega))
      else if (body ++ [lo, hi])[1] ≠ 0x03#8 then .functionCodeMismatch 0x03#8 (body ++ [lo, hi])[1]
      else decodeRegs (body ++ [lo, hi]) := by
  have hl : ¬ (body ++ [lo, hi]).length < 2 := by simp
  have hbody : (body ++ [lo, hi]).take ((body ++ [lo, hi]).length - 2) = body := by simp
  have hcrc : le16At (body ++ [lo, hi]) ((body ++ [lo, hi]).length - 2) (by simp) = joinBytes hi lo := by
    simp [le16At, inByte]
  unfold decodeResponse
  simp only [crcLen, hl, dite_false, hbody, hcrc]
  rfl

/-- Every sequence of at least two bytes is a body and its last two bytes. -/
theorem exists_append_two (f : List Byte) (h : 2 ≤ f.length) : ∃ body lo hi, f = body ++ [lo, hi] := by
  refine ⟨f.take (f.length - 2), f[f.length - 2], f[f.length - 1], ?_⟩
  conv_lhs => rw [← List.take_append_drop (f.length - 2) f]
  congr 1
  rw [List.drop_eq_getElem_cons (by omega), List.drop_eq_getElem_cons (by omega)]
  simp only [show f.length - 2 + 1 = f.length - 1 by omega, show f.length - 1 + 1 = f.length by omega,
    List.drop_length]

/-- The register block where the byte count exists: the bound, and then the registers. -/
theorem decodeRegs_of_byteCount (f : List Byte) (bc : Byte) (h2 : f[2]? = some bc) :
    decodeRegs f =
      if h : 3 + 2 * regCount bc > f.length then .malformedFrame
      else .okRegs (readRegs f (regCount bc) (by simpa [regOffset] using h)) := by
  obtain ⟨l2, rfl⟩ := List.getElem?_eq_some_iff.mp h2
  unfold decodeRegs
  rw [dif_neg (show ¬ f.length < regOffset from (by omega : ¬ f.length < 3))]
  rfl

/-- The register block where the byte count does not exist. -/
theorem decodeRegs_short (f : List Byte) (h : f.length < 3) : decodeRegs f = .malformedFrame := dif_pos h

end Sys2Proof.Machine
end

