-- ==== Sys2Proof/Laws/HostMoves.lean ====
section
/-! SUPPORT. Everything a command record, a host line and a step can do when they answer a next state. -/

namespace Sys2Proof.Machine

/-- A command line delivers one result on a reset instance: that of its command, or ILLEGAL_COMMAND. -/
theorem runCommand_next {r : CommandRecord} {s t : State} (h : runCommand r s = .next t) :
    ∃ u, s.unitAddr = some u ∧
      ((∃ i, decodeRecord r = .ok i ∧ i.wellFormed = true ∧ t = s.deliver (resultOf i u)) ∨
       (∃ e, decodeRecord r = .error e ∧ t = s.deliver .illegalCommand)) := by
  unfold runCommand at h
  split at h
  · next i hi =>
    split at h
    · obtain ⟨u, hu, ht⟩ := commandOn_next (by rwa [exec_eq_commandOn] at h)
      exact ⟨u, hu, .inl ⟨i, hi, ‹_›, ht⟩⟩
    · cases h
  · next e he =>
    obtain ⟨u, hu, ht⟩ := commandOn_next h
    exact ⟨u, hu, .inr ⟨e, he, ht⟩⟩

/-- An aborted command leaves the instance as a reset does, with no result delivered. -/
theorem abortCommand_next {r : CommandRecord} {u : Byte} {s t : State} (h : abortCommand r u s = .next t) :
    t = s.resetTo u ∧ s.unitAddr ≠ none := by
  unfold abortCommand at h
  split at h
  · next hr =>
    obtain ⟨v, hv, -⟩ := runCommand_next hr
    exact ⟨by simpa using h.symm, by simp [hv]⟩
  · cases h
  · cases h

theorem gotoLabel_next {target : Nat} {s t : State} (h : gotoLabel target s = .next t) :
    ∃ ls, afterLabel target s.script = some ls ∧ t = { s with todo := ls } := by
  unfold gotoLabel at h
  split at h
  · exact ⟨_, ‹_›, by simpa using h.symm⟩
  · cases h

theorem gotoIf_next {c : Bool} {target : Nat} {s t : State} (h : gotoIf c target s = .next t) :
    ∃ ls, t = { s with todo := ls } := by
  unfold gotoIf at h
  split at h
  · obtain ⟨ls, -, ht⟩ := gotoLabel_next h
    exact ⟨ls, ht⟩
  · exact ⟨s.todo, by simpa using h.symm⟩

/-- A host IF changes nothing but the line the host goes on at. -/
theorem branchStatus_next {st : Status} {target : Nat} {s t : State} (h : branchStatus st target s = .next t) :
    ∃ ls, t = { s with todo := ls } := by
  unfold branchStatus at h
  split at h
  · exact gotoIf_next h
  · cases h

theorem branchReg_next {j : Nat} {v : Word} {target : Nat} {s t : State}
    (h : branchReg j v target s = .next t) : ∃ ls, t = { s with todo := ls } := by
  unfold branchReg at h
  split at h
  · split at h
    · exact gotoIf_next h
    · cases h
  · cases h

/-- What one step can do: run a command (which delivers one result), reset the instance (with a command aborted or not),
or move the host to other lines of its script. -/
theorem step_next {s t : State} (h : step s = .next t) :
    (∃ r ls, s.todo = .command r :: ls ∧ runCommand r { s with todo := ls } = .next t) ∨
    (∃ u ls, s.todo = .reset u :: ls ∧ t = State.resetTo { s with todo := ls } u) ∨
    (∃ r u ls, s.todo = .commandAborted r u :: ls ∧ s.unitAddr ≠ none ∧
      t = State.resetTo { s with todo := ls } u) ∨
    (∃ l ls ls', s.todo = l :: ls ∧ (∀ r, l ≠ .command r) ∧ (∀ u, l ≠ .reset u) ∧
      (∀ r u, l ≠ .commandAborted r u) ∧ t = { s with todo := ls' }) := by
  unfold step hostStep at h
  split at h
  · next l ls hl =>
    cases l with
    | reset u => exact .inr (.inl ⟨u, ls, hl, by simpa [runLine] using h.symm⟩)
    | command r => exact .inl ⟨r, ls, hl, h⟩
    | commandAborted r u =>
      obtain ⟨ht, hu⟩ := abortCommand_next h
      exact .inr (.inr (.inl ⟨r, u, ls, hl, hu, ht⟩))
    | label n => exact .inr (.inr (.inr ⟨_, ls, ls, hl, by simp, by simp, by simp, by simpa [runLine] using h.symm⟩))
    | ifStatus st n =>
      obtain ⟨ls', ht⟩ := branchStatus_next h
      exact .inr (.inr (.inr ⟨_, ls, ls', hl, by simp, by simp, by simp, ht⟩))
    | ifReg j v n =>
      obtain ⟨ls', ht⟩ := branchReg_next h
      exact .inr (.inr (.inr ⟨_, ls, ls', hl, by simp, by simp, by simp, ht⟩))
    | goto n =>
      obtain ⟨ls', -, ht⟩ := gotoLabel_next h
      exact .inr (.inr (.inr ⟨_, ls, ls', hl, by simp, by simp, by simp, ht⟩))
    | halt => exact .inr (.inr (.inr ⟨_, ls, [], hl, by simp, by simp, by simp, by simpa [runLine] using h.symm⟩))
  · cases h

end Sys2Proof.Machine
end

