-- ==== Sys2Proof/Laws/PerInstr.lean ====
section
/-! SUPPORT. Facts about every command as it is written. -/

namespace Sys2Proof.Laws.RecordCode

/-- Byte 0 of a command's serialised record is the CMD of its record (R60). -/
def Statement (i : Instr) : Prop := (encode i).head? = some i.toRecord.cmd

theorem crc16 (data : List Byte) : Statement (.crc16 data) := rfl
theorem buildRhr (first last : Word) : Statement (.buildRhr first last) := rfl
theorem decodeRhr (data : List Byte) : Statement (.decodeRhr data) := rfl

end Sys2Proof.Laws.RecordCode
end

