-- ==== Sys2Proof/Laws/Platform.lean ====
section
/-! SUPPORT. Everything a platform step can do. -/

namespace Sys2Proof.Machine

/-- A platform step that completes replaces the one instance by its own next state. -/
theorem stepInstance_next {p q : List State} {k : Nat} (h : stepInstance p k = .next q) :
    ∃ s t, p[k]? = some s ∧ step s = .next t ∧ q = p.set k t := by
  unfold stepInstance at h
  split at h
  · next s hs =>
    split at h
    · next t ht => exact ⟨s, t, hs, ht, by simpa using h.symm⟩
    · cases h
    · cases h
  · cases h

end Sys2Proof.Machine
end

