-- ==== Sys2Proof/Tests/Slice0.lean ====
section
/-! SUPPORT. The model's own tests, with expected values from spec/95_test_vectors.md and hand calculation, and for every
statement of Obligations.lean that has hypotheses a witness that meets them, clause by clause. -/

namespace Sys2Proof.Tests

open Sys2Proof Sys2Proof.Machine

/-- An instance with this unit address, whose host has one line to run. -/
def atUnit (u : Byte) (l : HostLine) : State := { State.neverReset [] with unitAddr := some u, todo := [l] }

/-- The serialised results after one step; none where the step answers no next state. -/
def resultBytes (s : State) : List (List Byte) :=
  match step s with
  | .next t => t.received.map Result.toBytes
  | _ => []

/-! ### Well-formed commands -/

theorem test_crc16_overlong_ill_formed :
    (Instr.crc16 (List.replicate (Config.maxInputLen + 1) 0#8)).wellFormed = false := by
  rw [Instr.wellFormed, Bool.eq_false_iff, ne_eq, fitsInput_iff]; simp

theorem test_decodeRhr_overlong_ill_formed :
    (Instr.decodeRhr (List.replicate (Config.maxInputLen + 1) 0#8)).wellFormed = false := by
  rw [Instr.wellFormed, Bool.eq_false_iff, ne_eq, fitsInput_iff]; simp

theorem test_short_commands_well_formed :
    (Instr.crc16 [0x00#8]).wellFormed = true ∧ (Instr.buildRhr 5#16 3#16).wellFormed = true ∧
      (Instr.decodeRhr []).wellFormed = true := by decide

/-! ### Decoding: records written out from R60 and R61 -/

theorem test_decode_crc16 : decodeBytes [0x10#8, 0xAB#8] = .ok (.crc16 [0xAB#8]) := by decide
theorem test_decode_buildRhr :
    decodeBytes [0x20#8, 0x00#8, 0x6B#8, 0x12#8, 0x6D#8] = .ok (.buildRhr 0x006B#16 0x126D#16) := by decide
theorem test_decode_decodeRhr : decodeBytes [0x30#8, 0x01#8, 0x83#8] = .ok (.decodeRhr [0x01#8, 0x83#8]) := by decide
/-- CMD-02 and CMD-03. -/
theorem test_decode_reserved :
    decodeBytes [0x03#8] = .error (.reservedCommand 0x03#8) ∧
      decodeBytes [0x11#8, 0x00#8] = .error (.reservedCommand 0x11#8) := by decide
theorem test_decode_no_record :
    decodeBytes [] = .error .emptyRecord ∧ decodeBytes [0x20#8, 0x00#8] = .error .wrongRecordLength := by decide
theorem test_table_words :
    decodeTableWord 8 0x10 = some (.crc16 []) ∧ decodeTableWord 8 0x20 = some (.buildRhr 0#16 0#16) ∧
      decodeTableWord 8 0x30 = some (.decodeRhr []) ∧ decodeTableWord 8 0xFF = none := by decide
theorem test_fetch_from_reset :
    step (State.reset.withFetchWord 8 0x20) = exec (.buildRhr 0#16 0#16) State.reset := rfl

/-! ### The commands -/

/-- CRC-07: the check value over "123456789". -/
theorem test_crc16_check_value :
    resultBytes (atUnit 1#8 (.command (Instr.crc16
      [0x31#8, 0x32#8, 0x33#8, 0x34#8, 0x35#8, 0x36#8, 0x37#8, 0x38#8, 0x39#8]).toRecord)) =
      [[0x00#8, 0x4B#8, 0x37#8]] := by decide +kernel
/-- CRC-01. -/
theorem test_crc16_empty :
    resultBytes (atUnit 1#8 (.command (Instr.crc16 []).toRecord)) = [[0x00#8, 0xFF#8, 0xFF#8]] := by decide +kernel
/-- BLD-08: LAST < FIRST. -/
theorem test_buildRhr_wraps :
    resultBytes (atUnit 1#8 (.command (Instr.buildRhr 5#16 3#16).toRecord)) =
      [[0x00#8, 0x01#8, 0x03#8, 0x00#8, 0x05#8, 0xFF#8, 0xFF#8, 0x54#8, 0x7B#8]] := by decide +kernel
/-- BLD-05: 126 registers are not capped. -/
theorem test_buildRhr_not_capped :
    resultBytes (atUnit 1#8 (.command (Instr.buildRhr 0#16 0x7D#16).toRecord)) =
      [[0x00#8, 0x01#8, 0x03#8, 0x00#8, 0x00#8, 0x00#8, 0x7E#8, 0xC5#8, 0xEA#8]] := by decide +kernel
/-- DEC-15: an odd byte count takes the checksum's low byte. -/
theorem test_decodeRhr_odd_count :
    resultBytes (atUnit 1#8 (.command (Instr.decodeRhr
      [0x01#8, 0x03#8, 0x03#8, 0xAA#8, 0xBB#8, 0xCC#8, 0x17#8, 0x0B#8]).toRecord)) =
      [[0x00#8, 0xAA#8, 0xBB#8, 0xCC#8, 0x17#8]] := by decide +kernel
/-- DEC-27: a 6-byte exception frame. -/
theorem test_decodeRhr_long_exception :
    decodeResponse 1#8 [0x01#8, 0x83#8, 0x01#8, 0x00#8, 0xF1#8, 0xA0#8] =
      .modbusException 0x01#8 0x83#8 0x01#8 1#3 "Illegal function" := by decide +kernel
/-- CMD-04. -/
theorem test_reserved_command :
    resultBytes (atUnit 2#8 (.command ⟨0xFF#8, 0#16, 0#16, []⟩)) = [[0x06#8]] := by decide +kernel
/-- P4's first RESET, on an instance never reset. -/
theorem test_reset_line :
    step (State.neverReset [.reset 0x01#8]) =
      .next { unitAddr := some 0x01#8, script := [.reset 0x01#8], todo := [], received := [] } := by rfl

/-! ### Witnesses -/

/-- An instance with unit address 1 and nothing else. -/
def unit1 : State := { State.neverReset [] with unitAddr := some 0x01#8 }

theorem witness_reset_state : unit1.unitAddr = some 0x01#8 ∧ unit1.unitAddr ≠ none := by decide
theorem witness_never_reset : (State.neverReset []).unitAddr = none := rfl

theorem witness_StepRunsDecodedCommand :
    (atUnit 1#8 (.command (Instr.buildRhr 1#16 2#16).toRecord)).todo = [.command (Instr.buildRhr 1#16 2#16).toRecord] ∧
      decodeRecord (Instr.buildRhr 1#16 2#16).toRecord = .ok (.buildRhr 1#16 2#16) ∧
      (Instr.buildRhr 1#16 2#16).wellFormed = true := by decide
theorem witness_ReservedCommandReturnsIllegalCommand :
    (atUnit 1#8 (.command ⟨0x11#8, 0#16, 0#16, []⟩)).unitAddr = some 1#8 ∧
      (atUnit 1#8 (.command ⟨0x11#8, 0#16, 0#16, []⟩)).todo = [.command ⟨0x11#8, 0#16, 0#16, []⟩] ∧
      (0x11#8 : Byte) ≠ 0x10#8 ∧ (0x11#8 : Byte) ≠ 0x20#8 ∧ (0x11#8 : Byte) ≠ 0x30#8 := by decide
theorem witness_CrcBitShiftsThenXors : (0xFFFF#16).toNat % 2 = 1 ∧ (0xFFFE#16).toNat % 2 = 0 := by decide
theorem witness_RegisterCountWraps :
    ((0x0000#16).toNat ≤ (0xFFFE#16).toNat ∧ (0xFFFE#16).toNat - (0x0000#16).toNat ≤ 0xFFFE) ∧
      ((0xFFFF#16).toNat ≤ (0xFFFF#16).toNat ∧ (0xFFFF#16).toNat - (0xFFFF#16).toNat ≤ 0xFFFE) ∧
      (0x0000#16).toNat + 1 = (0x0001#16).toNat ∧
      (0x0000#16).toNat + 2 ≤ (0x0002#16).toNat ∧ (0x0000#16).toNat + 2 ≤ (0xFFFF#16).toNat := by decide
theorem witness_ShortResponseIsMalformed : ([] : List Byte).length < 2 ∧ [0x01#8].length < 2 := by decide
theorem witness_WrongChecksumIsCrcMismatch : joinBytes 0xFF#8 0xFE#8 ≠ crc16 [] := by decide
theorem witness_OtherUnitIsAddressMismatch :
    (checksummed [])[0]? = some 0xFF#8 ∧ (0xFF#8 : Byte) ≠ 0x01#8 ∧
      (checksummed [0x02#8, 0x83#8, 0x02#8])[0]? = some 0x02#8 ∧ (0x02#8 : Byte) ≠ 0x01#8 := by decide +kernel
/-- The code clause at 7 and 8, and the short-frame clause at DEC-14's frame. -/
theorem witness_ExceptionResponseIsReported :
    ((7#3).toNat = if (0x07#8 : Byte).toNat ≤ 7 then (0x07#8 : Byte).toNat else 0) ∧
      ((0#3).toNat = if (0x08#8 : Byte).toNat ≤ 7 then (0x08#8 : Byte).toNat else 0) ∧
      (checksummed [0x01#8, 0x83#8]).length < 5 ∧ (checksummed [0x01#8, 0x83#8])[0]? = some 0x01#8 ∧
      (checksummed [0x01#8, 0x83#8])[1]? = some 0x83#8 := by decide +kernel
theorem witness_OtherFunctionIsFunctionCodeMismatch :
    (checksummed [0x01#8, 0x84#8, 0x02#8])[0]? = some 0x01#8 ∧
      (checksummed [0x01#8, 0x84#8, 0x02#8])[1]? = some 0x84#8 ∧ (0x84#8 : Byte) ≠ 0x03#8 ∧
      ¬ (5 ≤ (checksummed [0x01#8, 0x84#8, 0x02#8]).length ∧ (0x84#8 : Byte) = 0x83#8) ∧
      (checksummed [0x01#8, 0x83#8])[1]? = some 0x83#8 ∧
      ¬ (5 ≤ (checksummed [0x01#8, 0x83#8]).length ∧ (0x83#8 : Byte) = 0x83#8) := by decide +kernel
/-- DEC-26, where the one read ends at the frame's last byte, and DEC-25, where it would pass it. -/
theorem witness_RegisterBlockIsDecoded :
    checksummed [0x01#8, 0x03#8, 0x01#8] = [0x01#8, 0x03#8, 0x01#8, 0xE1#8, 0x30#8] ∧
      3 + 2 * (((0x01#8 : Byte).toNat + 1) / 2) ≤ (checksummed [0x01#8, 0x03#8, 0x01#8]).length ∧
      checksummed [0x01#8, 0x03#8] = [0x01#8, 0x03#8, 0x40#8, 0x21#8] ∧
      3 + 2 * (((0x40#8 : Byte).toNat + 1) / 2) > (checksummed [0x01#8, 0x03#8]).length := by decide +kernel
theorem witness_TrailingBytesAreIgnored :
    ([] : List Byte).length = 2 * (((0x00#8 : Byte).toNat + 1) / 2) ∧
      (List.replicate 256 0x5A#8).length = 2 * (((0xFF#8 : Byte).toNat + 1) / 2) := by decide +kernel
theorem witness_WellFormedResponseDecodesToItsRegisters : (List.replicate 127 0xBEEF#16).length ≤ 127 :=
  List.length_replicate.le
/-- The last byte and a body byte of MUT-2's frame. -/
theorem witness_SingleByteMutationIsCrcMismatch :
    4 < (checksummed [0x01#8, 0x83#8, 0x02#8]).length ∧
      (checksummed [0x01#8, 0x83#8, 0x02#8])[4]? ≠ some 0x00#8 ∧
      (checksummed [0x01#8, 0x83#8, 0x02#8])[0]? ≠ some 0x00#8 := by decide +kernel
theorem witness_CommandsOnlyDeliverOneResult :
    exec (.crc16 []) unit1 = .next { unit1 with received := [.okCrc 0xFFFF#16] } := by rfl
theorem witness_EveryIssuedCommandGetsOneResult :
    (atUnit 1#8 (.command (Instr.crc16 []).toRecord)).unitAddr = some 1#8 ∧
      ∀ i, decodeRecord (Instr.crc16 []).toRecord = .ok i → i.wellFormed = true :=
  ⟨rfl, fun i h => by cases h; decide⟩
/-- The longest DATA that can be issued, on a reset instance, and one byte more. -/
theorem witness_OverlongInputIsNoMove :
    (List.replicate Config.maxInputLen 0#8).length ≤ Config.maxInputLen ∧
      (atUnit 1#8 (.command (Instr.crc16 (List.replicate Config.maxInputLen 0#8)).toRecord)).todo =
        [.command (Instr.crc16 (List.replicate Config.maxInputLen 0#8)).toRecord] ∧
      (atUnit 1#8 (.command (Instr.crc16 (List.replicate Config.maxInputLen 0#8)).toRecord)).unitAddr ≠ none ∧
      (List.replicate (Config.maxInputLen + 1) 0#8).length > Config.maxInputLen ∧
      (atUnit 1#8 (.command (Instr.decodeRhr (List.replicate (Config.maxInputLen + 1) 0#8)).toRecord)).todo =
        [.command (Instr.decodeRhr (List.replicate (Config.maxInputLen + 1) 0#8)).toRecord] :=
  ⟨by simp, rfl, by simp [atUnit], by simp, rfl⟩
/-- A record of each code that carries operands, and a reserved one, beside one that differs in the fields not carried. -/
theorem witness_FieldsNotCarriedAreIgnored :
    (∀ r ∈ [CommandRecord.mk 0x20#8 1#16 2#16 [0xAA#8], ⟨0x20#8, 1#16, 2#16, []⟩],
        r.cmd = 0x20#8 ∧ r.first = 1#16 ∧ r.last = 2#16) ∧
      (∀ r ∈ [CommandRecord.mk 0x30#8 1#16 2#16 [0xAA#8], ⟨0x30#8, 0#16, 0#16, [0xAA#8]⟩],
        r.cmd = 0x30#8 ∧ r.data = [0xAA#8]) ∧
      ∀ r ∈ [CommandRecord.mk 0xFF#8 1#16 2#16 [0xAA#8], ⟨0xFF#8, 0#16, 0#16, []⟩],
        r.cmd = 0xFF#8 ∧ r.cmd ≠ 0x20#8 ∧ r.cmd ≠ 0x10#8 ∧ r.cmd ≠ 0x30#8 := by decide
theorem witness_ResetLoadsUnitAddress :
    (State.neverReset [.reset 0x02#8]).todo = [.reset 0x02#8] ∧
      (State.neverReset [.command (Instr.crc16 []).toRecord]).unitAddr = none ∧
      (State.neverReset [.command (Instr.crc16 []).toRecord]).todo = [.command (Instr.crc16 []).toRecord] :=
  ⟨rfl, rfl, rfl⟩
theorem witness_ResetDuringCommandAbortsIt :
    (atUnit 1#8 (.commandAborted (Instr.buildRhr 0#16 1#16).toRecord 2#8)).unitAddr = some 1#8 ∧
      (atUnit 1#8 (.commandAborted (Instr.buildRhr 0#16 1#16).toRecord 2#8)).todo =
        [.commandAborted (Instr.buildRhr 0#16 1#16).toRecord 2#8] ∧
      ∀ i, decodeRecord (Instr.buildRhr 0#16 1#16).toRecord = .ok i → i.wellFormed = true :=
  ⟨rfl, rfl, fun i h => by cases h; rfl⟩
theorem witness_UnitAddressChangesOnlyByReset :
    step (atUnit 1#8 (.reset 2#8)) = .next { atUnit 1#8 (.reset 2#8) with unitAddr := some 2#8, todo := [] } ∧
      some 2#8 ≠ (atUnit 1#8 (.reset 2#8)).unitAddr := ⟨rfl, by decide⟩

/-- A script with one label, and the result of a DECODE_RHR received. -/
def atScript (l : HostLine) : State :=
  { unitAddr := some 1#8, script := [l, .label 7, .halt], todo := [l, .label 7, .halt], received := [.okRegs [0x0A#16]] }

theorem witness_HostLinesMoveOnlyTheHost :
    afterLabel 7 (atScript (.goto 7)).script = some [.halt] ∧
      (Result.okRegs [0x0A#16]).status = .ok ∧ (Result.okRegs [0x0A#16]).status ≠ .crcMismatch ∧
      [0x0A#16][0]? = some 0x0A#16 ∧ (0x0A#16 : Word) ≠ 0x0B#16 ∧
      (atScript (.ifStatus .ok 7)).todo = [.ifStatus .ok 7, .label 7, .halt] ∧
      (atScript (.ifReg 0 0x0A#16 7)).todo = [.ifReg 0 0x0A#16 7, .label 7, .halt] := by decide
theorem witness_InstancesAreIndependent :
    stepInstance [atUnit 1#8 (.reset 3#8), atUnit 1#8 (.label 0)] 0 =
        .next [{ atUnit 1#8 (.reset 3#8) with unitAddr := some 3#8, todo := [] }, atUnit 1#8 (.label 0)] ∧
      stepInstance [{ atUnit 1#8 (.reset 3#8) with unitAddr := some 3#8, todo := [] }, atUnit 1#8 (.label 0)] 1 =
        .next [{ atUnit 1#8 (.reset 3#8) with unitAddr := some 3#8, todo := [] },
          { atUnit 1#8 (.label 0) with todo := [] }] := ⟨rfl, rfl⟩
theorem witness_StepKeepsInvariants :
    (State.neverReset [.reset 1#8]).ResultsSound ∧ (State.neverReset [.reset 1#8]).SilentUntilReset ∧
      step (State.neverReset [.reset 1#8]) =
        .next { State.neverReset [.reset 1#8] with unitAddr := some 1#8, todo := [] } :=
  ⟨by simp [State.ResultsSound, State.neverReset], fun _ => rfl, rfl⟩

end Sys2Proof.Tests
end

section
/-! SUPPORT. What a step on a command line answers, by what its record decodes to (R9, R61, R62). -/

namespace Sys2Proof.Machine

/-- A step runs the host's next line on the state that has moved past it (R10). -/
theorem step_of_todo_cons {s : State} {l : HostLine} {ls : List HostLine} (h : s.todo = l :: ls) :
    step s = runLine l { s with todo := ls } := by
  simp only [step, hostStep, h]

theorem step_command {s : State} {r : CommandRecord} {ls : List HostLine} (h : s.todo = .command r :: ls) :
    step s = runCommand r { s with todo := ls } :=
  step_of_todo_cons h

theorem runCommand_of_ok {r : CommandRecord} {i : Instr} (h : decodeRecord r = .ok i) (hw : i.wellFormed = true)
    (s : State) : runCommand r s = exec i s := by
  simp only [runCommand, h, hw, if_true]

theorem runCommand_of_error {r : CommandRecord} {e : DecodeError} (h : decodeRecord r = .error e) (s : State) :
    runCommand r s = illegalCommand s := by
  simp only [runCommand, h]

/-- On a reset instance a command delivers its result (R174). -/
theorem exec_reset {s : State} {u : Byte} (h : s.unitAddr = some u) (i : Instr) :
    exec i s = .next (s.deliver (resultOf i u)) := by
  rw [exec_eq_commandOn, commandOn_reset h]

/-- On a reset instance a reserved code delivers ILLEGAL_COMMAND (R62, R159). -/
theorem illegalCommand_reset {s : State} {u : Byte} (h : s.unitAddr = some u) :
    illegalCommand s = .next (s.deliver .illegalCommand) :=
  commandOn_reset h _

/-- A record that the host can issue delivers one result on a reset instance, whatever its code. -/
theorem runCommand_reset {s : State} {u : Byte} {r : CommandRecord} (hu : s.unitAddr = some u)
    (hw : ∀ i, decodeRecord r = .ok i → i.wellFormed = true) :
    ∃ res : Result, runCommand r s = .next (s.deliver res) := by
  cases hr : decodeRecord r with
  | ok i => exact ⟨resultOf i u, by rw [runCommand_of_ok hr (hw i hr), exec_reset hu]⟩
  | error e => exact ⟨.illegalCommand, by rw [runCommand_of_error hr, illegalCommand_reset hu]⟩

/-- Settles O4: the host moves past the line, and the record's command is one that can be issued. -/
theorem stepRunsDecodedCommand : Obligations.StepRunsDecodedCommand := by
  intro s r ls i htodo hdecode hwf
  rw [step_command htodo, runCommand_of_ok hdecode hwf]

/-- Settles O30: the step is `runCommand` past the line, which on a reset instance delivers the decoded command's result
or ILLEGAL_COMMAND. -/
theorem everyIssuedCommandGetsOneResult : Obligations.EveryIssuedCommandGetsOneResult := by
  intro s u r ls hreset htodo hwf
  obtain ⟨res, hres⟩ := runCommand_reset (s := { s with todo := ls }) hreset hwf
  exact ⟨res, (step_command htodo).trans hres⟩

end Sys2Proof.Machine
end

section
/-! SUPPORT. The state rules: the frame of the commands (R20, R47, R154), the message ROM (R26), and the two invariants
where no result has been delivered (R32, R171). -/

namespace Sys2Proof.Machine

@[simp] theorem State.neverReset_received (script : List HostLine) : (State.neverReset script).received = [] := rfl

/-- Where nothing has been delivered, every delivered result is sound. -/
theorem State.resultsSound_of_received_nil {s : State} (h : s.received = []) : s.ResultsSound := by
  intro r hr
  rw [h] at hr
  exact absurd hr List.not_mem_nil

theorem State.silentUntilReset_of_received_nil {s : State} (h : s.received = []) : s.SilentUntilReset :=
  fun _ => h

/-- A command that completes delivers the result it computes from UNIT_ADDR, and does nothing else (R47, R154). -/
theorem exec_next {i : Instr} {s t : State} (h : exec i s = .next t) :
    ∃ u, s.unitAddr = some u ∧ t = s.deliver (resultOf i u) :=
  commandOn_next (exec_eq_commandOn i s ▸ h)

/-- Settles O26: the next state is the old one with one result delivered, and a delivery touches `received` only. -/
theorem commandsOnlyDeliverOneResult : Obligations.CommandsOnlyDeliverOneResult := by
  intro i s t h
  obtain ⟨u, -, rfl⟩ := exec_next h
  exact ⟨s.deliver_unitAddr _, s.deliver_script _, s.deliver_todo _, resultOf i u, s.deliver_received _⟩

/-- Settles O17: each index selects the ROM's entry of that number. -/
theorem exceptionMessageTable : Obligations.ExceptionMessageTable :=
  ⟨rfl, rfl, rfl, rfl, rfl, rfl, rfl, rfl⟩

/-- Settles O37: after reset as before it nothing has been delivered, and then both invariants hold. -/
theorem resetMeetsInvariants : Obligations.ResetMeetsInvariants :=
  ⟨State.resultsSound_of_received_nil State.reset_received,
    State.silentUntilReset_of_received_nil State.reset_received,
    fun script => ⟨State.resultsSound_of_received_nil (State.neverReset_received script),
      State.silentUntilReset_of_received_nil (State.neverReset_received script)⟩⟩

end Sys2Proof.Machine
end

section
/-! SUPPORT. The memory rules: no command reads anything of the state but UNIT_ADDR (R48, R49). -/

namespace Sys2Proof.Machine

/-- Settles O25: the one result is `resultOf i u`, which takes the command and UNIT_ADDR and no state. -/
theorem resultDependsOnCommandAndUnitOnly : Obligations.ResultDependsOnCommandAndUnitOnly := by
  intro i u
  refine ⟨resultOf i u, fun s hunit => ?_⟩
  exact exec_reset hunit i

end Sys2Proof.Machine
end

section
/-! SUPPORT. The encodings: a record against its command, serialised bytes against their command (R60 to R63), and the
serialised result record (R65, R66). -/

namespace Sys2Proof

theorem decodeRecord_toRecord (i : Instr) : decodeRecord i.toRecord = .ok i := by
  cases i with
  | crc16 data => exact decodeRecord_crc16 _ _ data
  | buildRhr first last => exact decodeRecord_buildRhr first last _
  | decodeRhr data => exact decodeRecord_decodeRhr _ _ data

/-- Every code but the three of R61 is reserved. -/
theorem decodeRecord_reserved {r : CommandRecord} (h1 : r.cmd ≠ cmdCrc16) (h2 : r.cmd ≠ cmdBuildRhr)
    (h3 : r.cmd ≠ cmdDecodeRhr) : decodeRecord r = .error (.reservedCommand r.cmd) := by
  rw [decodeRecord, if_neg h1, if_neg h2, if_neg h3]

/-- The decoder reads CMD and the fields that the code carries, and no other field (R60, R62). -/
theorem decodeRecord_congr {r q : CommandRecord} (hcmd : r.cmd = q.cmd)
    (hbuild : r.cmd = cmdBuildRhr → r.first = q.first ∧ r.last = q.last)
    (hdata : r.cmd = cmdCrc16 ∨ r.cmd = cmdDecodeRhr → r.data = q.data) : decodeRecord r = decodeRecord q := by
  unfold decodeRecord
  rw [← hcmd]
  split_ifs with h1 h2 h3
  · rw [hdata (.inl h1)]
  · rw [(hbuild h2).1, (hbuild h2).2]
  · rw [hdata (.inr h3)]
  · rfl

/-- A record other than BUILD_RHR's that gives a command is, with its CMD and DATA, that command's encoding. -/
theorem encode_of_decodeRecord {r : CommandRecord} {i : Instr} (hbuild : r.cmd ≠ cmdBuildRhr)
    (h : decodeRecord r = .ok i) : r.cmd :: r.data = encode i := by
  unfold decodeRecord at h
  split_ifs at h with h1 h3
  · cases h
    rw [h1]
    rfl
  · cases h
    rw [h3]
    rfl

/-- The operand bytes of a BUILD_RHR record are its two fields, big-endian, and nothing else (R60, R44). -/
theorem buildRecordOfBytes_ok {bs : List Byte} {r : CommandRecord} (h : buildRecordOfBytes bs = .ok r) :
    r = ⟨cmdBuildRhr, r.first, r.last, []⟩ ∧
      bs = [hiByte r.first, loByte r.first, hiByte r.last, loByte r.last] := by
  unfold buildRecordOfBytes at h
  split at h
  · cases h
    simp
  · cases h

theorem recordOfBytes_buildRhr (bs : List Byte) :
    recordOfBytes (cmdBuildRhr :: bs) = buildRecordOfBytes bs := by
  rw [recordOfBytes, if_pos rfl]

theorem recordOfBytes_of_ne {c : Byte} (h : c ≠ cmdBuildRhr) (bs : List Byte) :
    recordOfBytes (c :: bs) = .ok ⟨c, 0#16, 0#16, bs⟩ := if_neg h

theorem recordOfBytes_encode (i : Instr) : recordOfBytes (encode i) = .ok i.toRecord := by
  cases i with
  | crc16 data => exact recordOfBytes_of_ne (by decide) data
  | buildRhr first last =>
    simp only [encode, recordOfBytes_buildRhr, buildRecordOfBytes, joinBytes_hiByte_loByte, Instr.toRecord]
  | decodeRhr data => exact recordOfBytes_of_ne (by decide) data

theorem decodeBytes_of_recordOfBytes {bs : List Byte} {r : CommandRecord} (h : recordOfBytes bs = .ok r) :
    decodeBytes bs = decodeRecord r := by
  simp only [decodeBytes, h]

theorem decodeBytes_encode (i : Instr) : decodeBytes (encode i) = .ok i := by
  rw [decodeBytes_of_recordOfBytes (recordOfBytes_encode i), decodeRecord_toRecord]

/-- Bytes that decode to a command serialise a record, and that record gives the command. -/
theorem decodeBytes_ok {bs : List Byte} {i : Instr} (h : decodeBytes bs = .ok i) :
    ∃ r, recordOfBytes bs = .ok r ∧ decodeRecord r = .ok i := by
  unfold decodeBytes at h
  split at h
  · exact ⟨_, ‹_›, h⟩
  · cases h

/-- No bit of an encoding is dropped: bytes that decode to a command are its encoding. -/
theorem eq_encode_of_decodeBytes {bs : List Byte} {i : Instr} (h : decodeBytes bs = .ok i) : bs = encode i := by
  obtain ⟨r, hrecord, hdecode⟩ := decodeBytes_ok h
  cases bs with
  | nil => cases hrecord
  | cons c rest =>
    by_cases hc : c = cmdBuildRhr
    · subst hc
      rw [recordOfBytes_buildRhr] at hrecord
      obtain ⟨hr, hrest⟩ := buildRecordOfBytes_ok hrecord
      rw [hr, decodeRecord_buildRhr] at hdecode
      cases hdecode
      rw [hrest]
      rfl
    · rw [recordOfBytes_of_ne hc] at hrecord
      cases hrecord
      exact encode_of_decodeRecord hc hdecode

theorem decodeBytes_eq_ok_iff {bs : List Byte} {i : Instr} : decodeBytes bs = .ok i ↔ bs = encode i :=
  ⟨eq_encode_of_decodeBytes, fun h => h ▸ decodeBytes_encode i⟩

/-- Settles O2: decoding and encoding invert each other through the record that the bytes serialise. -/
theorem decodingInvertsEncoding : Obligations.DecodingInvertsEncoding :=
  ⟨fun _ _ => decodeBytes_eq_ok_iff, fun i => ⟨decodeRecord_toRecord i, recordOfBytes_encode i⟩⟩

/-- Settles O1: each accepted record is the encoding of the command named, and 0xFF is none of the three codes. -/
theorem commandWordsDecode : Obligations.CommandWordsDecode := by
  simp only [Obligations.CommandWordsDecode, decodeBytes_eq_ok_iff]
  decide

/-- Settles O3: the decoder's refusal and the reserved codes determine each other. -/
theorem onlyReservedCodesAreRefused : Obligations.OnlyReservedCodesAreRefused := by
  intro r e
  constructor
  · exact decodeRecord_error
  · rintro ⟨rfl, h1, h2, h3⟩
    exact decodeRecord_reserved h1 h2 h3

namespace Machine

theorem Status.code_le (st : Status) : st.code.toNat ≤ 6 := by
  cases st <;> decide

/-- Settles O28: status code and payload are the rows of the table, and no status code is above 6. -/
theorem resultRecordBytes : Obligations.ResultRecordBytes :=
  ⟨fun _ => rfl, fun _ => rfl, fun _ => rfl, rfl, fun _ _ => rfl, fun _ _ _ _ _ => rfl, fun _ _ => rfl, rfl, rfl,
    fun r => r.status.code_le⟩

/-- Two records that stand for the same command, or are refused alike, do the same. -/
theorem runCommand_congr {r q : CommandRecord} (h : decodeRecord r = decodeRecord q) (s : State) :
    runCommand r s = runCommand q s := by
  unfold runCommand
  rw [h]

/-- Settles O40: the fields that the code does not carry do not reach the decoded command. -/
theorem fieldsNotCarriedAreIgnored : Obligations.FieldsNotCarriedAreIgnored := by
  intro r q s hcmd hbuild hdata
  exact runCommand_congr (decodeRecord_congr hcmd hbuild hdata) s

end Machine
end Sys2Proof
end

section
/-! SUPPORT. Which lengths of DATA the host can issue (R60, R64, R176). -/

namespace Sys2Proof.Machine

/-- A command that carries DATA can be issued exactly if the DATA is at most MAX_INPUT_LEN long. -/
theorem wellFormed_iff_of_data {i : Instr} {data : List Byte} (h : i = .crc16 data ∨ i = .decodeRhr data) :
    i.wellFormed = true ↔ data.length ≤ Config.maxInputLen := by
  obtain rfl | rfl := h
  · exact fitsInput_iff data
  · exact fitsInput_iff data

theorem runCommand_of_not_wellFormed {r : CommandRecord} {i : Instr} (h : decodeRecord r = .ok i)
    (hw : ¬ i.wellFormed = true) (s : State) : runCommand r s = .refused .inputTooLong := by
  simp only [runCommand, h, if_neg hw]

/-- Settles O31: the length check is the bound of MAX_INPUT_LEN; within it the command completes, above it the host has
no such move. -/
theorem overlongInputIsNoMove : Obligations.OverlongInputIsNoMove := by
  refine ⟨Nat.le_add_right _ _, fun data => ⟨wellFormed_iff_of_data (.inl rfl), wellFormed_iff_of_data (.inr rfl)⟩,
    fun _ _ => rfl, ?_⟩
  intro data s ls i hi htodo
  have hdecode := decodeRecord_toRecord i
  constructor
  · intro hlen hreset
    obtain ⟨u, hu⟩ := Option.ne_none_iff_exists'.mp hreset
    refine everyIssuedCommandGetsOneResult s u _ ls hu htodo fun j hj => ?_
    cases hdecode.symm.trans hj
    exact (wellFormed_iff_of_data hi).mpr hlen
  · intro hlen
    rw [step_command htodo]
    exact runCommand_of_not_wellFormed hdecode (fun hw => absurd ((wellFormed_iff_of_data hi).mp hw) (by omega)) _

end Sys2Proof.Machine
end

section
/-! SUPPORT. What the host's own lines answer where their label and their last result exist (R73). -/

namespace Sys2Proof.Machine

theorem gotoLabel_of_afterLabel {s : State} {n : Nat} {target : List HostLine}
    (h : afterLabel n s.script = some target) :
    gotoLabel n s = .next { s with todo := target } := by
  simp only [gotoLabel, h]

/-- A branch goes on after the label exactly if its condition holds. -/
theorem gotoIf_decide_of_afterLabel {s : State} {n : Nat} {target : List HostLine}
    (h : afterLabel n s.script = some target) (p : Prop) [Decidable p] :
    gotoIf (decide p) n s = .next { s with todo := if p then target else s.todo } := by
  by_cases hp : p
  · simp only [gotoIf, hp, decide_true, if_true, gotoLabel_of_afterLabel h]
  · simp [gotoIf, hp]

theorem branchStatus_of_received {s : State} {r : Result} {rs : List Result} (h : s.received = r :: rs)
    (st : Status) (n : Nat) : branchStatus st n s = gotoIf (decide (r.status = st)) n s := by
  simp only [branchStatus, h]

theorem branchReg_of_received {s : State} {r : Result} {rs : List Result} {j : Nat} {w : Word}
    (h : s.received = r :: rs) (hw : r.regs[j]? = some w) (v : Word) (n : Nat) :
    branchReg j v n s = gotoIf (decide (w = v)) n s := by
  simp only [branchReg, h, hw]

/-- Settles O35: each line is its own move of the host on the state past the line. -/
theorem hostLinesMoveOnlyTheHost : Obligations.HostLinesMoveOnlyTheHost := by
  intro s ls target n
  refine ⟨step_of_todo_cons, step_of_todo_cons, fun hlabel => ⟨?goto, ?ifStatus, ?ifReg⟩⟩
  case goto =>
    intro htodo
    rw [step_of_todo_cons htodo]
    exact gotoLabel_of_afterLabel (s := { s with todo := ls }) hlabel
  case ifStatus =>
    intro st r rs hreceived htodo
    rw [step_of_todo_cons htodo]
    exact (branchStatus_of_received (s := { s with todo := ls }) hreceived st n).trans
      (gotoIf_decide_of_afterLabel (s := { s with todo := ls }) hlabel _)
  case ifReg =>
    intro j v w regs rs hreceived hw htodo
    rw [step_of_todo_cons htodo]
    exact (branchReg_of_received (s := { s with todo := ls }) hreceived hw v n).trans
      (gotoIf_decide_of_afterLabel (s := { s with todo := ls }) hlabel _)

end Sys2Proof.Machine
end

section
/-! SUPPORT. The residue of a frame that carries its checksum (R104), the soundness of every command's result (R67, R124
to R128, R132), and the invariant that every delivered result is sound. -/

namespace Sys2Proof.Machine

/-- Folding the accumulator's own low byte clears it, so that the eight bit steps only shift. -/
theorem crcByte_loByte (a : Word) : crcByte a (loByte a) = a >>> 8 := by
  rw [crcByte, crcBits_eq_shiftRight]
  · apply BitVec.eq_of_getLsbD_eq
    intro i _
    simp [loByte]
  · intro i hi
    simp [loByte, hi, Nat.lt_trans hi (by decide : 8 < 16)]

/-- What the first checksum byte leaves is the second one, which clears it. -/
theorem crcByte_shiftRight_hiByte (a : Word) : crcByte (a >>> 8) (hiByte a) = 0#16 := by
  have hzero : (a >>> 8) ^^^ (hiByte a).setWidth 16 = 0#16 := by
    apply BitVec.eq_of_getLsbD_eq
    intro i hi
    by_cases h8 : i < 8
    · simp [hiByte, h8, hi]
    · simp [hiByte, h8, BitVec.getLsbD_of_ge a (8 + i) (by omega)]
  rw [crcByte, hzero, crcBits_eq_shiftRight]
  · simp
  · simp

/-- A frame that carries its checksum has residue 0 (R104). -/
theorem crc16_checksummed (body : List Byte) : crc16 (checksummed body) = 0#16 := by
  simp only [checksummed, crc16_append, List.foldl_cons, List.foldl_nil, crcByte_loByte, crcByte_shiftRight_hiByte]

theorem requestFrame_eq_checksummed (u : Byte) (first last : Word) :
    requestFrame u first last = checksummed (requestHeader u first last) := rfl

theorem requestFrame_sound (u : Byte) (first last : Word) : (Result.okFrame (requestFrame u first last)).Sound :=
  ⟨length_requestFrame u first last, rfl, by rw [requestFrame_eq_checksummed, crc16_checksummed]⟩

/-- A byte count gives at most 128 registers (R132). -/
theorem decodeRegs_sound (f : List Byte) : (decodeRegs f).Sound := by
  cases h2 : f[2]? with
  | none =>
    rw [decodeRegs_short f (by have := List.getElem?_eq_none_iff.mp h2; omega)]
    trivial
  | some bc =>
    rw [decodeRegs_of_byteCount f bc h2]
    split
    · trivial
    · exact (length_readRegs f _ _).trans_le (regCount_le bc)

theorem decodeResponse_short (u : Byte) {f : List Byte} (h : f.length < 2) : decodeResponse u f = .malformedFrame :=
  dif_pos h

/-- Each check that fires has established what its result reports (R121). -/
theorem decodeResponse_sound (u : Byte) (f : List Byte) : (decodeResponse u f).Sound := by
  by_cases hlen : f.length < 2
  · rw [decodeResponse_short u hlen]
    trivial
  · obtain ⟨body, lo, hi, rfl⟩ := exists_append_two f (by omega)
    rw [decodeResponse_append]
    split_ifs with hcrc hunit hexc hfunction
    · trivial
    · exact Ne.symm hunit
    · exact ⟨hexc.2, rfl, rfl⟩
    · exact ⟨rfl, hfunction⟩
    · exact decodeRegs_sound _

theorem resultOf_sound (i : Instr) (u : Byte) : (resultOf i u).Sound := by
  cases i with
  | crc16 data => trivial
  | buildRhr first last => exact requestFrame_sound u first last
  | decodeRhr data => exact decodeResponse_sound u data

/-- Delivering a sound result keeps the delivered results sound. -/
theorem State.ResultsSound.deliver {s : State} (hs : s.ResultsSound) {r : Result} (hr : r.Sound) :
    (s.deliver r).ResultsSound :=
  List.forall_mem_cons.mpr ⟨hr, hs⟩

theorem runCommand_resultsSound {r : CommandRecord} {s t : State} (hs : s.ResultsSound)
    (h : runCommand r s = .next t) : t.ResultsSound := by
  obtain ⟨u, -, ⟨i, -, -, rfl⟩ | ⟨e, -, rfl⟩⟩ := runCommand_next h
  · exact hs.deliver (resultOf_sound i u)
  · exact hs.deliver trivial

/-- Settles O38: only a command line delivers a result, and every command's result is sound; a reset and the host's own
lines leave the delivered results as they are. -/
theorem stepKeepsResultsSound : Obligations.StepKeepsResultsSound := by
  intro s t hs h
  obtain ⟨r, ls, -, hrun⟩ | ⟨u, ls, -, rfl⟩ | ⟨r, u, ls, -, -, rfl⟩ | ⟨l, ls, ls', -, -, -, -, rfl⟩ :=
    step_next h
  · exact runCommand_resultsSound (s := { s with todo := ls }) hs hrun
  · exact hs
  · exact hs
  · exact hs

end Sys2Proof.Machine
end

section
/-! SUPPORT. The checksum engine: the bit step in arithmetic (R100), the byte step as an iteration (R101), and the checksum
as a request frame carries it (R102). -/

namespace Sys2Proof

/-- The exclusive or with a zero-extended byte leaves the high byte (R101). -/
theorem hiByte_xor_setWidth (a : Word) (b : Byte) : hiByte (a ^^^ b.setWidth 16) = hiByte a := by
  apply BitVec.eq_of_getLsbD_eq
  intro i hi
  simp [hiByte, hi]

theorem loByte_xor_setWidth (a : Word) (b : Byte) : loByte (a ^^^ b.setWidth 16) = loByte a ^^^ b := by
  apply BitVec.eq_of_getLsbD_eq
  intro i hi
  simp [loByte, hi, Nat.lt_trans hi (by decide : 8 < 16)]

namespace Machine

/-- Bit 0 is the parity, by which the bit step decides (R100). -/
theorem getLsbD_zero_iff_odd (a : Word) : a.getLsbD 0 = true ↔ a.toNat % 2 = 1 := by
  rw [← BitVec.testBit_toNat, Nat.testBit_zero, decide_eq_true_eq]

theorem toNat_shiftRight_one (a : Word) : (a >>> 1).toNat = a.toNat / 2 := by
  rw [BitVec.toNat_ushiftRight, Nat.shiftRight_eq_div_pow, Nat.pow_one]

theorem toNat_crcBit_of_odd {a : Word} (h : a.toNat % 2 = 1) :
    (crcBit a).toNat = (a.toNat / 2) ^^^ 0xA001 := by
  rw [crcBit, if_pos ((getLsbD_zero_iff_odd a).mpr h), BitVec.toNat_xor, toNat_shiftRight_one]
  rfl

theorem toNat_crcBit_of_even {a : Word} (h : a.toNat % 2 = 0) : (crcBit a).toNat = a.toNat / 2 := by
  have heven : ¬ a.getLsbD 0 = true := by
    rw [getLsbD_zero_iff_odd]
    omega
  rw [crcBit, if_neg heven, toNat_shiftRight_one]

theorem crcBits_eq_iterate (n : Nat) (a : Word) : crcBits n a = crcBit^[n] a := by
  induction n generalizing a with
  | zero => rfl
  | succ n ih => rw [crcBits, ih, Function.iterate_succ_apply]

/-- The last two bytes of a frame that carries its checksum are the checksum of the rest, low byte first (R102, R67). -/
theorem drop_checksummed (body : List Byte) :
    (checksummed body).drop body.length = [loByte (crc16 body), hiByte (crc16 body)] :=
  List.drop_left

theorem take_checksummed (body : List Byte) : (checksummed body).take body.length = body :=
  List.take_left

theorem take_requestFrame (u : Byte) (first last : Word) :
    (requestFrame u first last).take 6 = requestHeader u first last :=
  take_checksummed (requestHeader u first last)

/-- Settles O10: the two appended bytes make the sequence a frame that carries its checksum, whose residue is 0. -/
theorem checksumResidueIsZero : Obligations.ChecksumResidueIsZero :=
  crc16_checksummed

/-- Settles O6: the parity of the accumulator selects the branch of the bit step; the shift fills bit 15 with 0. -/
theorem crcBitShiftsThenXors : Obligations.CrcBitShiftsThenXors := by
  intro a
  refine ⟨toNat_crcBit_of_odd, toNat_crcBit_of_even, ?_⟩
  rw [BitVec.getLsbD_ushiftRight]
  exact BitVec.getLsbD_of_ge a (1 + 15) (by decide)

/-- Settles O7: a zero-extended byte has bits in the low byte only, and `crcBits 8` iterates the bit step. -/
theorem crcByteFoldsLowByteEightTimes : Obligations.CrcByteFoldsLowByteEightTimes :=
  fun a b => ⟨hiByte_xor_setWidth a b, loByte_xor_setWidth a b, crcBits_eq_iterate 8 _⟩

/-- Settles O8: the fold's two equations, and the request frame as its header with the header's checksum. -/
theorem crcFoldsBytesInOrder : Obligations.CrcFoldsBytesInOrder := by
  refine ⟨crc16_nil, crc16_concat, fun u first last => ?_⟩
  rw [take_requestFrame]
  exact drop_checksummed (requestHeader u first last)

/-- Settles O9: CRC16 delivers once UNIT_ADDR is set, and `resultOf` gives the checksum whatever UNIT_ADDR is; the worked
example is computed. -/
theorem crc16DeliversChecksum : Obligations.Crc16DeliversChecksum := by
  refine ⟨fun data s hreset => ?_, crc16_nil, by decide +kernel⟩
  obtain ⟨u, hu⟩ := Option.ne_none_iff_exists'.mp hreset
  exact exec_reset hu (.crc16 data)

end Machine
end Sys2Proof
end

section
/-! SUPPORT. The frame builder: a 16-bit field as its two bytes (R41, R43), COUNT in arithmetic (R110), and BUILD_RHR's
one result (R113). -/

namespace Sys2Proof

theorem toNat_joinBytes (hi lo : Byte) : (joinBytes hi lo).toNat = hi.toNat * 256 + lo.toNat := by
  rw [joinBytes, BitVec.toNat_append, ← Nat.shiftLeft_add_eq_or_of_lt lo.isLt, Nat.shiftLeft_eq]

/-- A field written as its two bytes reads back as the field (R41, R43). -/
theorem toNat_hiByte_loByte (v : Word) : (hiByte v).toNat * 256 + (loByte v).toNat = v.toNat := by
  rw [← toNat_joinBytes, joinBytes_hiByte_loByte]

namespace Machine

theorem toNat_registerCount (first last : Word) :
    (registerCount first last).toNat = (last.toNat + 0x10000 - first.toNat + 1) % 0x10000 := by
  unfold registerCount
  bv_omega

/-- Where FIRST does not lie above LAST and the count fits in 16 bits, COUNT is exact (R110). -/
theorem toNat_registerCount_of_le {first last : Word} (hle : first.toNat ≤ last.toNat)
    (hfits : last.toNat - first.toNat ≤ 0xFFFE) :
    (registerCount first last).toNat = last.toNat - first.toNat + 1 := by
  rw [toNat_registerCount]
  omega

/-- The adjacent pair LAST = FIRST - 1 is one of the two that wrap to 0 (R110). -/
theorem registerCount_of_succ_eq {first last : Word} (h : last.toNat + 1 = first.toNat) :
    registerCount first last = 0x0000#16 := by
  apply BitVec.eq_of_toNat_eq
  rw [toNat_registerCount, BitVec.toNat_ofNat]
  omega

theorem toNat_registerCount_of_add_two_le {first last : Word} (h : last.toNat + 2 ≤ first.toNat) :
    (registerCount first last).toNat = 0x10000 - (first.toNat - last.toNat - 1) := by
  rw [toNat_registerCount]
  omega

/-- BUILD_RHR on a reset instance delivers the request frame, whatever FIRST and LAST are (R113, R114). -/
theorem exec_buildRhr_reset {s : State} {u : Byte} (h : s.unitAddr = some u) (first last : Word) :
    exec (.buildRhr first last) s = .next (s.deliver (.okFrame (requestFrame u first last))) :=
  exec_reset h (.buildRhr first last)

/-- The eight bytes of the request frame (R111, R112). -/
theorem requestFrame_bytes (u : Byte) (first last : Word) :
    requestFrame u first last =
      [u, 0x03#8, hiByte first, loByte first, hiByte (registerCount first last), loByte (registerCount first last),
        loByte (crc16 (requestHeader u first last)), hiByte (crc16 (requestHeader u first last))] := rfl

/-- Settles O13: each field of the frame is the two bytes of a 16-bit value, and COUNT is exact in the range. -/
theorem requestFrameReadsBack : Obligations.RequestFrameReadsBack := by
  intro first last s u hu hle hfits
  have hexec := exec_buildRhr_reset hu first last
  rw [requestFrame_bytes] at hexec
  have hcount : (hiByte (registerCount first last)).toNat * 256 + (loByte (registerCount first last)).toNat =
      last.toNat - first.toNat + 1 := by
    rw [toNat_hiByte_loByte, toNat_registerCount_of_le hle hfits]
  exact ⟨_, _, _, _, _, _, _, _, hexec, rfl, rfl, toNat_hiByte_loByte first, hcount, toNat_hiByte_loByte _⟩

/-- Settles O11: every case is the value modulo 2^16, and BUILD_RHR delivers a frame in each of them. -/
theorem registerCountWraps : Obligations.RegisterCountWraps := by
  intro first last
  refine ⟨toNat_registerCount first last, toNat_registerCount_of_le, ?fullRange, registerCount_of_succ_eq,
    toNat_registerCount_of_add_two_le, ?noError⟩
  case fullRange =>
    rintro rfl rfl
    decide
  case noError =>
    intro s hreset
    obtain ⟨u, hu⟩ := Option.ne_none_iff_exists'.mp hreset
    exact ⟨requestFrame u first last, exec_buildRhr_reset hu first last⟩

/-- Settles O12: the header with its checksum is the request frame, for every COUNT. -/
theorem buildRhrDeliversRequestFrame : Obligations.BuildRhrDeliversRequestFrame :=
  fun first last _ _ hu => exec_buildRhr_reset hu first last

end Machine
end Sys2Proof
end

section
/-! SUPPORT. The response decoder: each check of the strict order on a frame that reaches it (R121 to R127), the
register block (R128, R131, R132), and which status is reported (R153). -/

namespace Sys2Proof.Machine

/-- On a reset instance DECODE_RHR delivers what the decoder answers for UNIT_ADDR (R129). -/
theorem exec_decodeRhr_reset {s : State} {u : Byte} {f : List Byte} {r : Result} (hu : s.unitAddr = some u)
    (hr : decodeResponse u f = r) : exec (.decodeRhr f) s = .next (s.deliver r) :=
  hr ▸ exec_reset hu (.decodeRhr f)

/-- A result that does not depend on the unit address is delivered by every reset instance. -/
theorem exec_decodeRhr_of_forall {s : State} {f : List Byte} {r : Result} (hreset : s.unitAddr ≠ none)
    (h : ∀ u, decodeResponse u f = r) : exec (.decodeRhr f) s = .next (s.deliver r) := by
  obtain ⟨u, hu⟩ := Option.ne_none_iff_exists'.mp hreset
  exact exec_decodeRhr_reset hu (h u)

/-! ### The checks -/

theorem decodeResponse_wrongChecksum (u : Byte) {body : List Byte} {lo hi : Byte}
    (h : joinBytes hi lo ≠ crc16 body) : decodeResponse u (body ++ [lo, hi]) = .crcMismatch := by
  rw [decodeResponse_append, if_pos h.symm]

/-- Two bytes that read as the checksum, low byte first, are the checksum's bytes. -/
theorem append_eq_checksummed {body : List Byte} {lo hi : Byte} (h : joinBytes hi lo = crc16 body) :
    body ++ [lo, hi] = checksummed body := by
  rw [checksummed, ← h, hiByte_joinBytes, loByte_joinBytes]

theorem two_le_length_checksummed (body : List Byte) : 2 ≤ (checksummed body).length := by
  rw [length_checksummed]
  omega

/-- Bytes 0 and 1 exist in every frame that carries its checksum: they may be the checksum itself (R121). -/
theorem exists_bytes_checksummed (body : List Byte) :
    ∃ b0 b1, (checksummed body)[0]? = some b0 ∧ (checksummed body)[1]? = some b1 := by
  have hlen := two_le_length_checksummed body
  exact ⟨_, _, List.getElem?_eq_getElem (by omega), List.getElem?_eq_getElem (by omega)⟩

/-- The checks that are left for a frame that carries its checksum (R124 to R128). -/
theorem decodeResponse_checksummed (u : Byte) {body : List Byte} {b0 b1 : Byte}
    (h0 : (checksummed body)[0]? = some b0) (h1 : (checksummed body)[1]? = some b1) :
    decodeResponse u (checksummed body) =
      if b0 ≠ u then .unitAddressMismatch u b0
      else if h : 5 ≤ (checksummed body).length ∧ b1 = 0x83#8 then
        exceptionResult b0 b1 ((checksummed body)[2]'(by have := h.1; omega))
      else if b1 ≠ 0x03#8 then .functionCodeMismatch 0x03#8 b1
      else decodeRegs (checksummed body) := by
  obtain ⟨_, rfl⟩ := List.getElem?_eq_some_iff.mp h0
  obtain ⟨_, rfl⟩ := List.getElem?_eq_some_iff.mp h1
  have hcrc : crc16 body = joinBytes (hiByte (crc16 body)) (loByte (crc16 body)) :=
    (joinBytes_hiByte_loByte _).symm
  exact (decodeResponse_append u body _ _).trans (if_neg (not_not_intro hcrc))

theorem decodeResponse_otherUnit {u b0 : Byte} {body : List Byte} (h0 : (checksummed body)[0]? = some b0)
    (hunit : b0 ≠ u) : decodeResponse u (checksummed body) = .unitAddressMismatch u b0 := by
  obtain ⟨-, b1, -, h1⟩ := exists_bytes_checksummed body
  rw [decodeResponse_checksummed u h0 h1, if_pos hunit]

theorem decodeResponse_exception {u code : Byte} {body : List Byte} (h0 : (checksummed body)[0]? = some u)
    (h1 : (checksummed body)[1]? = some 0x83#8) (h2 : (checksummed body)[2]? = some code)
    (hlen : 5 ≤ (checksummed body).length) :
    decodeResponse u (checksummed body) = exceptionResult u 0x83#8 code := by
  obtain ⟨_, rfl⟩ := List.getElem?_eq_some_iff.mp h2
  rw [decodeResponse_checksummed u h0 h1, if_neg (not_not_intro rfl), dif_pos ⟨hlen, rfl⟩]

theorem decodeResponse_otherFunction {u b1 : Byte} {body : List Byte} (h0 : (checksummed body)[0]? = some u)
    (h1 : (checksummed body)[1]? = some b1) (hexc : ¬ (5 ≤ (checksummed body).length ∧ b1 = 0x83#8))
    (hfunction : b1 ≠ 0x03#8) :
    decodeResponse u (checksummed body) = .functionCodeMismatch 0x03#8 b1 := by
  rw [decodeResponse_checksummed u h0 h1, if_neg (not_not_intro rfl), dif_neg hexc, if_pos hfunction]

theorem decodeResponse_registers {u : Byte} {body : List Byte} (h0 : (checksummed body)[0]? = some u)
    (h1 : (checksummed body)[1]? = some 0x03#8) :
    decodeResponse u (checksummed body) = decodeRegs (checksummed body) := by
  rw [decodeResponse_checksummed u h0 h1, if_neg (not_not_intro rfl), dif_neg fun h => absurd h.2 (by decide),
    if_neg (not_not_intro rfl)]

/-! ### The register block -/

/-- The bound of R128: the byte count exists, and the last register it asks for lies inside the frame. -/
def RegistersFit (f : List Byte) : Prop :=
  ∃ bc : Byte, f[2]? = some bc ∧ 3 + 2 * ((bc.toNat + 1) / 2) ≤ f.length

theorem decodeRegs_of_fits {f : List Byte} {bc : Byte} (h2 : f[2]? = some bc)
    (hfits : regOffset + 2 * regCount bc ≤ f.length) : decodeRegs f = .okRegs (readRegs f (regCount bc) hfits) :=
  (decodeRegs_of_byteCount f bc h2).trans (dif_neg (Nat.not_lt.mpr hfits))

theorem decodeRegs_of_not_registersFit {f : List Byte} (h : ¬ RegistersFit f) : decodeRegs f = .malformedFrame := by
  cases h2 : f[2]? with
  | none => exact decodeRegs_short f (Nat.lt_succ_of_le (List.getElem?_eq_none_iff.mp h2))
  | some bc =>
    have hpast : 3 + 2 * regCount bc > f.length := by
      rw [regCount_eq]
      exact Nat.lt_of_not_le fun hle => h ⟨bc, h2, hle⟩
    rw [decodeRegs_of_byteCount f bc h2, dif_pos hpast]

theorem status_decodeRegs_of_registersFit {f : List Byte} (h : RegistersFit f) : (decodeRegs f).status = .ok := by
  obtain ⟨bc, h2, hfits⟩ := h
  rw [← regCount_eq] at hfits
  rw [decodeRegs_of_fits h2 hfits]
  rfl

/-- Register j is bytes 3+2j and 4+2j of the frame (R128). -/
theorem getElem?_readRegs (f : List Byte) (n : Nat) (h : regOffset + 2 * n ≤ f.length) {j : Nat} (hj : j < n) :
    ∃ hi lo, f[3 + 2 * j]? = some hi ∧ f[4 + 2 * j]? = some lo ∧
      (readRegs f n h)[j]? = some (joinBytes hi lo) := by
  have hbound : 3 + 2 * n ≤ f.length := h
  refine ⟨f[3 + 2 * j], f[4 + 2 * j], List.getElem?_eq_getElem _, List.getElem?_eq_getElem _, ?_⟩
  simp [readRegs, hj, be16At, inByte, regOffset, show 3 + 2 * j + 1 = 4 + 2 * j by omega]

/-- The two bytes of register j in a big-endian register block. -/
theorem getElem?_flatMap_be16Bytes {regs : List Word} {j : Nat} {v : Word} (h : regs[j]? = some v) :
    (regs.flatMap be16Bytes)[2 * j]? = some (hiByte v) ∧ (regs.flatMap be16Bytes)[2 * j + 1]? = some (loByte v) := by
  induction regs generalizing j with
  | nil => simp at h
  | cons w ws ih =>
    cases j with
    | zero =>
      obtain rfl : w = v := by simpa using h
      exact ⟨rfl, rfl⟩
    | succ j => exact ih (by simpa using h)

theorem length_flatMap_be16Bytes (regs : List Word) : (regs.flatMap be16Bytes).length = 2 * regs.length := by
  induction regs with
  | nil => rfl
  | cons v vs ih =>
    rw [List.flatMap_cons, List.length_append, ih, List.length_cons]
    simp only [be16Bytes, List.length_cons, List.length_nil]
    omega

/-- Every block of n byte pairs holds n registers, big-endian (R41). -/
theorem exists_flatMap_be16Bytes (n : Nat) (block : List Byte) (h : block.length = 2 * n) :
    ∃ regs : List Word, regs.length = n ∧ regs.flatMap be16Bytes = block := by
  induction n generalizing block with
  | zero => exact ⟨[], rfl, (List.eq_nil_of_length_eq_zero h).symm⟩
  | succ n ih =>
    match block, h with
    | hi :: lo :: rest, h =>
      obtain ⟨regs, hlen, hregs⟩ := ih rest (by simp only [List.length_cons] at h; omega)
      exact ⟨joinBytes hi lo :: regs, by rw [List.length_cons, hlen], by simp [be16Bytes, hregs]⟩

/-- The decoder reads back the registers that a frame carries from offset 3 on, whatever follows them. -/
theorem readRegs_append (header : List Byte) (regs : List Word) (rest : List Byte) (hheader : header.length = 3)
    (h : regOffset + 2 * regs.length ≤ (header ++ (regs.flatMap be16Bytes ++ rest)).length) :
    readRegs (header ++ (regs.flatMap be16Bytes ++ rest)) regs.length h = regs := by
  apply List.ext_getElem?
  intro j
  by_cases hj : j < regs.length
  · obtain ⟨hi, lo, hhi, hlo, hread⟩ := getElem?_readRegs _ _ h hj
    obtain ⟨hblockHi, hblockLo⟩ := getElem?_flatMap_be16Bytes (List.getElem?_eq_getElem hj)
    have hlen := length_flatMap_be16Bytes regs
    rw [List.getElem?_append_right (by omega), List.getElem?_append_left (by omega),
      show 3 + 2 * j - header.length = 2 * j by omega, hblockHi] at hhi
    rw [List.getElem?_append_right (by omega), List.getElem?_append_left (by omega),
      show 4 + 2 * j - header.length = 2 * j + 1 by omega, hblockLo] at hlo
    rw [hread, List.getElem?_eq_getElem hj, ← Option.some.inj hhi, ← Option.some.inj hlo, joinBytes_hiByte_loByte]
  · rw [List.getElem?_eq_none (by rw [length_readRegs]; omega), List.getElem?_eq_none (by omega)]

/-- A normal response from this unit decodes to the registers of its block, whatever stands between the block and the
checksum (R128, R131). -/
theorem decodeResponse_registerBlock (u : Byte) {bc : Byte} {regs : List Word} (hcount : regCount bc = regs.length)
    (tail : List Byte) :
    decodeResponse u (checksummed ([u, 0x03#8, bc] ++ regs.flatMap be16Bytes ++ tail)) = .okRegs regs := by
  rw [decodeResponse_registers rfl rfl]
  have hfits : regOffset + 2 * regCount bc ≤
      (checksummed ([u, 0x03#8, bc] ++ regs.flatMap be16Bytes ++ tail)).length := by
    simp only [length_checksummed, List.length_append, length_flatMap_be16Bytes, hcount, regOffset, List.length_cons,
      List.length_nil]
    omega
  rw [decodeRegs_of_fits rfl hfits]
  simp only [hcount, checksummed, List.append_assoc]
  rw [readRegs_append _ _ _ rfl]

theorem regCount_ofNat_two_mul {n : Nat} (h : n ≤ 127) : regCount (BitVec.ofNat 8 (2 * n)) = n := by
  rw [regCount_eq, BitVec.toNat_ofNat]
  omega

/-- Settles O23: the byte count 2N gives N registers, and the decoder reads each from the two bytes that carry it. -/
theorem wellFormedResponseDecodesToItsRegisters : Obligations.WellFormedResponseDecodesToItsRegisters := by
  intro regs u s hu hlen
  have hdecode := decodeResponse_registerBlock u (regCount_ofNat_two_mul hlen) []
  rw [List.append_nil] at hdecode
  exact exec_decodeRhr_reset hu hdecode

/-- Settles O22: the block is some registers' bytes, and the decoder reads those registers, whatever the tail. -/
theorem trailingBytesAreIgnored : Obligations.TrailingBytesAreIgnored := by
  intro u bc block tail s hu hblock
  obtain ⟨regs, hlen, rfl⟩ := exists_flatMap_be16Bytes _ block hblock
  have hcount : regCount bc = regs.length := (regCount_eq bc).trans hlen.symm
  exact ⟨regs, hlen, rfl, exec_decodeRhr_reset hu (decodeResponse_registerBlock u hcount tail)⟩

/-- Settles O20: within the bound every register is read from its two bytes; past it no register is returned. -/
theorem registerBlockIsDecoded : Obligations.RegisterBlockIsDecoded := by
  rintro body f u s hu rfl h0 h1
  have hexec := exec_decodeRhr_reset hu (decodeResponse_registers h0 h1)
  constructor
  · intro bc h2 hfits
    rw [← regCount_eq] at hfits
    rw [decodeRegs_of_fits h2 hfits] at hexec
    refine ⟨_, hexec, (length_readRegs _ _ hfits).trans (regCount_eq bc), fun j hj => ?_⟩
    exact getElem?_readRegs _ _ hfits (hj.trans_eq (length_readRegs _ _ hfits))
  · intro hpast
    rwa [decodeRegs_of_not_registersFit fun ⟨bc, h2, hfits⟩ => absurd hfits (Nat.not_le.mpr (hpast bc h2))] at hexec

/-! ### The statements of the single checks -/

/-- Settles O14: the length check comes before UNIT_ADDR is read. -/
theorem shortResponseIsMalformed : Obligations.ShortResponseIsMalformed :=
  fun _ _ hreset hlen => exec_decodeRhr_of_forall hreset fun u => decodeResponse_short u hlen

/-- Settles O15: the checksum is the first check on a frame of at least two bytes. -/
theorem wrongChecksumIsCrcMismatch : Obligations.WrongChecksumIsCrcMismatch :=
  fun _ _ _ _ hreset hcrc => exec_decodeRhr_of_forall hreset fun u => decodeResponse_wrongChecksum u hcrc

/-- Settles O16: the unit address is the next check after the checksum. -/
theorem otherUnitIsAddressMismatch : Obligations.OtherUnitIsAddressMismatch :=
  fun _ _ _ _ hu h0 hunit => exec_decodeRhr_reset hu (decodeResponse_otherUnit h0 hunit)

/-- Settles O19: the exception check does not fire, and the function code check does. -/
theorem otherFunctionIsFunctionCodeMismatch : Obligations.OtherFunctionIsFunctionCodeMismatch :=
  fun _ _ _ _ hu h0 h1 hfunction hexc =>
    exec_decodeRhr_reset hu (decodeResponse_otherFunction h0 h1 hexc hfunction)

/-- The message index is the code up to 7 and 0 above (R126). -/
theorem toNat_msgIndex (code : Byte) : (msgIndex code).toNat = if code.toNat ≤ 7 then code.toNat else 0 := by
  unfold msgIndex
  split
  · rw [BitVec.extractLsb'_toNat, Nat.shiftRight_zero]
    omega
  · rfl

/-- Settles O18: with at least 5 bytes the exception check fires, and the index with the value of R126 is `msgIndex`;
with fewer the frame is one of another function code. -/
theorem exceptionResponseIsReported : Obligations.ExceptionResponseIsReported := by
  intro u s hu
  constructor
  · intro code tail idx hidx
    obtain rfl : idx = msgIndex code := BitVec.eq_of_toNat_eq (hidx.trans (toNat_msgIndex code).symm)
    have hlen : 5 ≤ (checksummed ([u, 0x83#8, code] ++ tail)).length := by
      simp only [length_checksummed, List.length_append, List.length_cons, List.length_nil]
      omega
    exact exec_decodeRhr_reset hu (decodeResponse_exception rfl rfl rfl hlen)
  · intro body hlen h0 h1
    exact otherFunctionIsFunctionCodeMismatch body u 0x83#8 s hu h0 h1 (by decide) fun h => absurd h.1 (by omega)

/-! ### The strict order -/

/-- The condition under which the strict order of R121 reports a status: the check of that status fails and none before
it does, or none fails at all. -/
def FirstFailedCheck (u : Byte) (f : List Byte) : Status → Prop
  | .malformedFrame => f.length < 2 ∨
      ((∃ body, f = checksummed body) ∧ f[0]? = some u ∧ f[1]? = some 0x03#8 ∧ ¬ RegistersFit f)
  | .crcMismatch => 2 ≤ f.length ∧ ¬ ∃ body, f = checksummed body
  | .unitAddressMismatch => (∃ body, f = checksummed body) ∧ f[0]? ≠ some u
  | .modbusException => (∃ body, f = checksummed body) ∧ f[0]? = some u ∧ 5 ≤ f.length ∧ f[1]? = some 0x83#8
  | .functionCodeMismatch => (∃ body, f = checksummed body) ∧ f[0]? = some u ∧
      ¬ (5 ≤ f.length ∧ f[1]? = some 0x83#8) ∧ f[1]? ≠ some 0x03#8
  | .ok => (∃ body, f = checksummed body) ∧ f[0]? = some u ∧ f[1]? = some 0x03#8 ∧ RegistersFit f
  | .illegalCommand => False

/-- The conditions leave no response out. -/
theorem exists_firstFailedCheck (u : Byte) (f : List Byte) : ∃ st, FirstFailedCheck u f st := by
  by_cases hlen : f.length < 2
  · exact ⟨.malformedFrame, .inl hlen⟩
  by_cases hvalid : ∃ body, f = checksummed body
  swap
  · exact ⟨.crcMismatch, Nat.le_of_not_lt hlen, hvalid⟩
  by_cases h0 : f[0]? = some u
  swap
  · exact ⟨.unitAddressMismatch, hvalid, h0⟩
  by_cases hexc : 5 ≤ f.length ∧ f[1]? = some 0x83#8
  · exact ⟨.modbusException, hvalid, h0, hexc⟩
  by_cases h1 : f[1]? = some 0x03#8
  swap
  · exact ⟨.functionCodeMismatch, hvalid, h0, hexc, h1⟩
  by_cases hfits : RegistersFit f
  · exact ⟨.ok, hvalid, h0, h1, hfits⟩
  · exact ⟨.malformedFrame, .inr ⟨hvalid, h0, h1, hfits⟩⟩

/-- Where the condition of a status holds, that status is reported. -/
theorem status_decodeResponse {u : Byte} {f : List Byte} {st : Status} (h : FirstFailedCheck u f st) :
    (decodeResponse u f).status = st := by
  cases st with
  | malformedFrame =>
    obtain hlen | ⟨⟨body, rfl⟩, h0, h1, hfits⟩ := h
    · rw [decodeResponse_short u hlen]
      rfl
    · rw [decodeResponse_registers h0 h1, decodeRegs_of_not_registersFit hfits]
      rfl
  | crcMismatch =>
    obtain ⟨hlen, hvalid⟩ := h
    obtain ⟨body, lo, hi, rfl⟩ := exists_append_two f hlen
    rw [decodeResponse_wrongChecksum u fun hcrc => hvalid ⟨body, append_eq_checksummed hcrc⟩]
    rfl
  | unitAddressMismatch =>
    obtain ⟨⟨body, rfl⟩, h0⟩ := h
    obtain ⟨b0, -, hb0, -⟩ := exists_bytes_checksummed body
    rw [decodeResponse_otherUnit hb0 fun hunit => h0 (hb0.trans (congrArg some hunit))]
    rfl
  | modbusException =>
    obtain ⟨⟨body, rfl⟩, h0, hlen, h1⟩ := h
    rw [decodeResponse_exception h0 h1 (List.getElem?_eq_getElem (by omega)) hlen]
    rfl
  | functionCodeMismatch =>
    obtain ⟨⟨body, rfl⟩, h0, hexc, h1⟩ := h
    obtain ⟨-, b1, -, hb1⟩ := exists_bytes_checksummed body
    rw [hb1, Option.some_inj] at hexc
    rw [decodeResponse_otherFunction h0 hb1 hexc fun hfunction => h1 (hb1.trans (congrArg some hfunction))]
    rfl
  | ok =>
    obtain ⟨⟨body, rfl⟩, h0, h1, hfits⟩ := h
    rw [decodeResponse_registers h0 h1, status_decodeRegs_of_registersFit hfits]
  | illegalCommand => exact h.elim

/-- The reported status and its condition determine each other: some condition holds, and its status is the one that is
reported. -/
theorem status_decodeResponse_eq_iff {u : Byte} {f : List Byte} {st : Status} :
    (decodeResponse u f).status = st ↔ FirstFailedCheck u f st := by
  constructor
  · rintro rfl
    obtain ⟨st, h⟩ := exists_firstFailedCheck u f
    rwa [status_decodeResponse h]
  · exact status_decodeResponse

/-- Settles O21: DECODE_RHR delivers the decoder's result, and each clause is the condition of one status. -/
theorem decodeReportsFirstFailedCheck : Obligations.DecodeReportsFirstFailedCheck :=
  fun _ _ _ hu => ⟨_, exec_decodeRhr_reset hu rfl, status_decodeResponse_eq_iff, status_decodeResponse_eq_iff,
    status_decodeResponse_eq_iff, status_decodeResponse_eq_iff, status_decodeResponse_eq_iff,
    status_decodeResponse_eq_iff⟩

end Sys2Proof.Machine
end

section
/-! SUPPORT. The exceptions: the answer to a reserved code (R159), which command raises which error (R151), and what a
step of one of several instances does to the others (R49, R157). -/

namespace Sys2Proof.Machine

/-! ### Reserved codes -/

/-- A reserved code delivers ILLEGAL_COMMAND on every reset instance, and does nothing else (R62, R159). -/
theorem runCommand_reserved {s : State} {r : CommandRecord} (hreset : s.unitAddr ≠ none) (h1 : r.cmd ≠ cmdCrc16)
    (h2 : r.cmd ≠ cmdBuildRhr) (h3 : r.cmd ≠ cmdDecodeRhr) : runCommand r s = .next (s.deliver .illegalCommand) := by
  obtain ⟨u, hu⟩ := Option.ne_none_iff_exists'.mp hreset
  rw [runCommand_of_error (decodeRecord_reserved h1 h2 h3), illegalCommand_reset hu]

/-- Settles O5: the step is `runCommand` of the reserved record on the state past the line. -/
theorem reservedCommandReturnsIllegalCommand : Obligations.ReservedCommandReturnsIllegalCommand := by
  intro s u r ls hu htodo h1 h2 h3
  have hreset : ({ s with todo := ls } : State).unitAddr ≠ none := Option.ne_none_iff_exists'.mpr ⟨u, hu⟩
  exact (step_command htodo).trans (runCommand_reserved hreset h1 h2 h3)

/-! ### The errors of each command -/

/-- On a reset instance a command delivers a result of which everything holds that holds whatever UNIT_ADDR is. -/
theorem exists_exec_of_forall_resultOf {s : State} {i : Instr} {P : Result → Prop} (hreset : s.unitAddr ≠ none)
    (h : ∀ u, P (resultOf i u)) : ∃ r, exec i s = .next (s.deliver r) ∧ P r := by
  obtain ⟨u, hu⟩ := Option.ne_none_iff_exists'.mp hreset
  exact ⟨resultOf i u, exec_reset hu i, h u⟩

/-- No check of the decoder reports ILLEGAL_COMMAND (R151). -/
theorem status_decodeResponse_ne_illegalCommand (u : Byte) (f : List Byte) :
    (decodeResponse u f).status ≠ .illegalCommand :=
  fun h => status_decodeResponse_eq_iff.mp h

/-- For every unit address and each of DECODE_RHR's five errors some response raises it (R151). -/
theorem exists_decodeResponse_status (u : Byte) {st : Status}
    (h : st ∈ [Status.crcMismatch, .unitAddressMismatch, .modbusException, .functionCodeMismatch, .malformedFrame]) :
    ∃ f, (decodeResponse u f).status = st := by
  cases st with
  | crcMismatch =>
    have hcrc : joinBytes 0x00#8 0x00#8 ≠ crc16 [] := by decide
    exact ⟨[] ++ [0x00#8, 0x00#8], congrArg Result.status (decodeResponse_wrongChecksum u hcrc)⟩
  | unitAddressMismatch =>
    have hunit : u + 1#8 ≠ u := by bv_omega
    exact ⟨checksummed [u + 1#8], congrArg Result.status (decodeResponse_otherUnit rfl hunit)⟩
  | modbusException =>
    have hlen : 5 ≤ (checksummed [u, 0x83#8, 0x02#8]).length := (length_checksummed [u, 0x83#8, 0x02#8]).ge
    exact ⟨exceptionFrame u 0x02#8, congrArg Result.status (decodeResponse_exception rfl rfl rfl hlen)⟩
  | functionCodeMismatch =>
    have hexc : ¬ (5 ≤ (checksummed [u, 0x04#8]).length ∧ 0x04#8 = 0x83#8) := fun hexc => absurd hexc.2 (by decide)
    exact ⟨checksummed [u, 0x04#8], congrArg Result.status (decodeResponse_otherFunction rfl rfl hexc (by decide))⟩
  | malformedFrame =>
    have hlen : ([] : List Byte).length < 2 := Nat.zero_lt_two
    exact ⟨[], congrArg Result.status (decodeResponse_short u hlen)⟩
  | ok => exact absurd h (by decide)
  | illegalCommand => exact absurd h (by decide)

/-- Settles O27: CRC16 and BUILD_RHR have OK results only, the decoder has a response for each of its errors and none for
ILLEGAL_COMMAND, and a reserved code gets ILLEGAL_COMMAND. -/
theorem errorsOfEachCommand : Obligations.ErrorsOfEachCommand := by
  refine ⟨fun data s hreset => ?crc16, fun first last s hreset => ?buildRhr, fun data s hreset => ?decodeRhr,
    fun st hst => ?eachError, fun r s => runCommand_reserved⟩
  case crc16 => exact exists_exec_of_forall_resultOf (i := .crc16 data) hreset fun _ => rfl
  case buildRhr => exact exists_exec_of_forall_resultOf (i := .buildRhr first last) hreset fun _ => rfl
  case decodeRhr =>
    exact exists_exec_of_forall_resultOf (i := .decodeRhr data) hreset fun u =>
      status_decodeResponse_ne_illegalCommand u data
  case eachError =>
    obtain ⟨f, hf⟩ := exists_decodeResponse_status 0x01#8 hst
    exact ⟨f, _, exec_decodeRhr_reset rfl rfl, hf⟩

/-! ### Several instances -/

/-- A platform step replaces the one instance by its own next state. -/
theorem stepInstance_of_step {p : List State} {k : Nat} {s t : State} (hs : p[k]? = some s) (ht : step s = .next t) :
    stepInstance p k = .next (p.set k t) := by
  simp only [stepInstance, hs, ht]

/-- Settles O36: a platform step sets one entry of the list, and it reads that entry only, so that two entries are set in
either order. -/
theorem instancesAreIndependent : Obligations.InstancesAreIndependent := by
  constructor
  · intro p q k h
    obtain ⟨s, t, -, -, rfl⟩ := stepInstance_next h
    exact ⟨List.length_set, fun j hj => List.getElem?_set_ne hj.symm⟩
  · intro p q r j k hjk hj hk
    obtain ⟨s, s', hs, hstep, rfl⟩ := stepInstance_next hj
    obtain ⟨t, t', ht, htstep, rfl⟩ := stepInstance_next hk
    rw [List.getElem?_set_ne hjk] at ht
    have hs' : (p.set k t')[j]? = some s := (List.getElem?_set_ne hjk.symm).trans hs
    refine ⟨p.set k t', stepInstance_of_step ht htstep, ?_⟩
    rw [stepInstance_of_step hs' hstep, List.set_comm _ _ hjk]

end Sys2Proof.Machine
end

section
/-! SUPPORT. Reset and the one precondition: a command needs exactly a reset instance (R174), reset alone writes UNIT_ADDR
(R170, R173), and a reset that aborts a command delivers nothing (R172). -/

namespace Sys2Proof.Machine

/-- No command has a step on an instance that has never been reset (R170, R174). -/
theorem exec_neverReset {s : State} (h : s.unitAddr = none) (i : Instr) : exec i s = .fault .notReset := by
  rw [exec_eq_commandOn, commandOn_neverReset h]

/-- A record that completes, whatever its code, ran on a reset instance and leaves UNIT_ADDR as it was (R173, R174). -/
theorem runCommand_next_unitAddr {r : CommandRecord} {s t : State} (h : runCommand r s = .next t) :
    s.unitAddr ≠ none ∧ t.unitAddr = s.unitAddr := by
  obtain ⟨u, hu, ⟨i, -, -, rfl⟩ | ⟨e, -, rfl⟩⟩ := runCommand_next h
  · exact ⟨Option.ne_none_iff_exists'.mpr ⟨u, hu⟩, s.deliver_unitAddr _⟩
  · exact ⟨Option.ne_none_iff_exists'.mpr ⟨u, hu⟩, s.deliver_unitAddr _⟩

/-- A reset during a command that would have completed drops the command's next state: the instance is reset as it stood
before the command (R172). -/
theorem abortCommand_of_runCommand_next {r : CommandRecord} {s t : State} (h : runCommand r s = .next t) (u : Byte) :
    abortCommand r u s = .next (s.resetTo u) := by
  simp only [abortCommand, h]

/-- Settles O29: every command is one `commandOn`, which asks for a reset instance and nothing else. -/
theorem commandsNeedExactlyAReset : Obligations.CommandsNeedExactlyAReset := by
  intro i s
  constructor
  · intro hreset
    obtain ⟨u, hu⟩ := Option.ne_none_iff_exists'.mp hreset
    exact ⟨_, exec_reset hu i⟩
  · intro hnever
    exact exec_neverReset hnever i

/-- Settles O32: the reset line is `resetTo` past the line; a command line that completed would show a reset instance. -/
theorem resetLoadsUnitAddress : Obligations.ResetLoadsUnitAddress := by
  constructor
  · intro s u ls htodo
    exact step_of_todo_cons htodo
  · intro s r ls hnever htodo t hstep
    rw [step_command htodo] at hstep
    exact (runCommand_next_unitAddr hstep).1 hnever

/-- Settles O33: the command would have delivered its result, and the reset takes the place of that delivery. -/
theorem resetDuringCommandAbortsIt : Obligations.ResetDuringCommandAbortsIt := by
  intro s u v r ls hreset htodo hwf
  obtain ⟨res, hres⟩ := runCommand_reset (s := { s with todo := ls }) hreset hwf
  exact (step_of_todo_cons htodo).trans (abortCommand_of_runCommand_next hres u)

/-- Settles O34: of what a step can do, only the two resets write UNIT_ADDR, and each writes its own parameter. -/
theorem unitAddressChangesOnlyByReset : Obligations.UnitAddressChangesOnlyByReset := by
  intro s t hstep hchanged
  obtain ⟨r, ls, htodo, hrun⟩ | ⟨u, ls, htodo, rfl⟩ | ⟨r, u, ls, htodo, -, rfl⟩ | ⟨l, ls, ls', -, -, -, -, rfl⟩ :=
    step_next hstep
  · exact absurd (runCommand_next_unitAddr hrun).2 hchanged
  · exact ⟨u, ls, State.resetTo_unitAddr _ u, .inl htodo⟩
  · exact ⟨u, ls, State.resetTo_unitAddr _ u, .inr ⟨r, htodo⟩⟩
  · exact absurd rfl hchanged

/-- Settles O39: after a command or a reset the instance has been reset, and any other line leaves UNIT_ADDR and the
results as they were. -/
theorem stepKeepsSilentUntilReset : Obligations.StepKeepsSilentUntilReset := by
  intro s t hsilent hstep hnever
  obtain ⟨r, ls, -, hrun⟩ | ⟨u, ls, -, rfl⟩ | ⟨r, u, ls, -, -, rfl⟩ | ⟨l, ls, ls', -, -, -, -, rfl⟩ := step_next hstep
  · obtain ⟨hreset, hsame⟩ := runCommand_next_unitAddr hrun
    exact absurd (hsame.symm.trans hnever) hreset
  · exact absurd hnever (Option.some_ne_none u)
  · exact absurd hnever (Option.some_ne_none u)
  · exact hsilent hnever

end Sys2Proof.Machine
end

section
/-! SUPPORT. One changed byte (SRC-4): the byte step loses nothing of the accumulator or of the byte, so a change of one
byte changes the residue, and a frame of another residue than 0 does not carry its checksum. -/

namespace Sys2Proof.Machine

theorem crcByte_left_injective (b : Byte) : Function.Injective (crcByte · b) :=
  fun _ _ h => (BitVec.xor_left_inj _).mp (crcBits_injective 8 h)

theorem crcByte_right_injective (a : Word) : Function.Injective (crcByte a) := by
  intro b c h
  have hlow : loByte (a ^^^ b.setWidth 16) = loByte (a ^^^ c.setWidth 16) := congrArg loByte (crcBits_injective 8 h)
  rwa [loByte_xor_setWidth, loByte_xor_setWidth, BitVec.xor_right_inj] at hlow

theorem foldl_crcByte_injective (l : List Byte) : Function.Injective (l.foldl crcByte) := by
  induction l with
  | nil => exact Function.injective_id
  | cons b l ih => exact ih.comp (crcByte_left_injective b)

/-- Between the same bytes, two different bytes give different checksums. -/
theorem crc16_append_cons_injective (l r : List Byte) : Function.Injective fun b => crc16 (l ++ b :: r) := by
  intro b c h
  simp only [crc16_append, List.foldl_cons] at h
  exact crcByte_right_injective _ (foldl_crcByte_injective r h)

theorem crc16_set_ne {f : List Byte} {i : Nat} {b : Byte} (hi : i < f.length) (hb : f[i]? ≠ some b) :
    crc16 (f.set i b) ≠ crc16 f := by
  intro h
  have hsame : crc16 (f.take i ++ b :: f.drop (i + 1)) = crc16 (f.take i ++ f[i] :: f.drop (i + 1)) := by
    rwa [← List.set_eq_take_cons_drop b hi, ← List.drop_eq_getElem_cons hi, List.take_append_drop]
  exact hb (List.getElem?_eq_some_iff.mpr ⟨hi, (crc16_append_cons_injective _ _ hsame).symm⟩)

/-- A response whose residue is not 0 fails the checksum check (R104, R123). -/
theorem decodeResponse_of_crc16_ne_zero (u : Byte) {f : List Byte} (hlen : 2 ≤ f.length) (hcrc : crc16 f ≠ 0#16) :
    decodeResponse u f = .crcMismatch := by
  obtain ⟨body, lo, hi, rfl⟩ := exists_append_two f hlen
  refine decodeResponse_wrongChecksum u fun hread => hcrc ?_
  rw [append_eq_checksummed hread, crc16_checksummed]

/-- Settles O24: the valid frame has residue 0, so the changed one has another residue. -/
theorem singleByteMutationIsCrcMismatch : Obligations.SingleByteMutationIsCrcMismatch := by
  intro body i b s hreset hi hb
  have hlen : 2 ≤ ((checksummed body).set i b).length := by
    rw [List.length_set]
    exact two_le_length_checksummed body
  have hcrc : crc16 ((checksummed body).set i b) ≠ 0#16 := by
    rw [← crc16_checksummed body]
    exact crc16_set_ne hi hb
  exact exec_decodeRhr_of_forall hreset fun u => decodeResponse_of_crc16_ne_zero u hlen hcrc

end Sys2Proof.Machine
end
